-- ==== Sys2Proof/Word.lean ====
section
/-!
DEFINITION. The two machine words (spec/00_scope.md R7, R9): the u8 of every register and bus access,
and the u16 of the program counter and of every address.
-/

namespace Sys2Proof

/-- `u8`: A, X, Y, SP, P and every bus access (R7, R9). -/
abbrev Byte := BitVec 8

/-- `u16`: PC, effective addresses and bus addresses (R7, R9). -/
abbrev Word := BitVec 16

end Sys2Proof
end

