-- ==== Sys2Proof/Syntax.lean ====
section
/-!
DEFINITION. The instructions (spec/30_encoding.md R111 to R119): one constructor for each instruction rule of
spec/42_load_store.md to spec/47_flags_nop.md, R201 to R290, with its addressing mode and operand bytes (log 12).
-/

namespace Sys2Proof

/-- The 13 addressing modes (30_encoding.md R112). -/
inductive Mode where
  | imp | acc | imm | zp | zpx | zpy | abs | absx | absy | ind | indx | indy | rel
deriving DecidableEq, Repr

/-- The modes that give an effective address through X, Y or page 0 (40_addressing.md R155 to R160, R162, R163). -/
inductive Mem where
  | zp (b : Byte)
  | zpx (b : Byte)
  | zpy (b : Byte)
  | abs (w : Word)
  | absx (w : Word)
  | absy (w : Word)
  | indx (b : Byte)
  | indy (b : Byte)
deriving DecidableEq, Repr

/-- The operand `M` of a reading instruction: an immediate byte (R154) or a byte of memory. -/
inductive Src where
  | imm (v : Byte)
  | mem (m : Mem)
deriving DecidableEq, Repr

/-- The memory modes of the read-modify-write instructions (40_addressing.md R170; 44_arithmetic.md R231, R232;
45_logic_shift.md R245 to R248). -/
inductive RmwMem where
  | zp (b : Byte)
  | zpx (b : Byte)
  | abs (w : Word)
  | absx (w : Word)
deriving DecidableEq, Repr

/-- The operand of a shift or rotate: the accumulator (R171) or a byte of memory (R170). -/
inductive Rmw where
  | acc
  | mem (m : RmwMem)
deriving DecidableEq, Repr

/-- The operand of JMP (46_control.md R265): the target, or the pointer to it. -/
inductive JmpOperand where
  | abs (w : Word)
  | ind (w : Word)
deriving DecidableEq, Repr

def Mem.mode : Mem → Mode
  | .zp _ => .zp
  | .zpx _ => .zpx
  | .zpy _ => .zpy
  | .abs _ => .abs
  | .absx _ => .absx
  | .absy _ => .absy
  | .indx _ => .indx
  | .indy _ => .indy

def Src.mode : Src → Mode
  | .imm _ => .imm
  | .mem m => m.mode

def RmwMem.toMem : RmwMem → Mem
  | .zp b => .zp b
  | .zpx b => .zpx b
  | .abs w => .abs w
  | .absx w => .absx w

def RmwMem.mode (m : RmwMem) : Mode := m.toMem.mode

def Rmw.mode : Rmw → Mode
  | .acc => .acc
  | .mem m => m.mode

def JmpOperand.mode : JmpOperand → Mode
  | .abs _ => .abs
  | .ind _ => .ind

/-- One constructor per instruction rule. The rule's number stands beside it. -/
inductive Instr where
  -- 42_load_store.md
  | lda (m : Src)                    -- R201
  | ldx (m : Src)                    -- R202
  | ldy (m : Src)                    -- R203
  | sta (m : Mem)                    -- R204
  | stx (m : Mem)                    -- R205
  | sty (m : Mem)                    -- R206
  -- 43_transfer_stack.md
  | tax                              -- R211
  | tay                              -- R212
  | txa                              -- R213
  | tya                              -- R214
  | tsx                              -- R215
  | txs                              -- R216
  | pha                              -- R217
  | php                              -- R218
  | pla                              -- R219
  | plp                              -- R220
  -- 44_arithmetic.md
  | adc (m : Src)                    -- R226
  | sbc (m : Src)                    -- R227
  | cmp (m : Src)                    -- R228
  | cpx (m : Src)                    -- R229
  | cpy (m : Src)                    -- R230
  | inc (m : RmwMem)                 -- R231
  | dec (m : RmwMem)                 -- R232
  | inx                              -- R233
  | iny                              -- R234
  | dex                              -- R235
  | dey                              -- R236
  -- 45_logic_shift.md
  | and (m : Src)                    -- R241
  | ora (m : Src)                    -- R242
  | eor (m : Src)                    -- R243
  | bit (m : Mem)                    -- R244
  | asl (m : Rmw)                    -- R245
  | lsr (m : Rmw)                    -- R246
  | rol (m : Rmw)                    -- R247
  | ror (m : Rmw)                    -- R248
  -- 46_control.md
  | bcc (o : Byte)                   -- R257
  | bcs (o : Byte)                   -- R258
  | beq (o : Byte)                   -- R259
  | bne (o : Byte)                   -- R260
  | bmi (o : Byte)                   -- R261
  | bpl (o : Byte)                   -- R262
  | bvc (o : Byte)                   -- R263
  | bvs (o : Byte)                   -- R264
  | jmp (t : JmpOperand)             -- R265
  | jsr (target : Word)              -- R266
  | rts                              -- R267
  | rti                              -- R268
  | brk (signature : Byte)           -- R269
  -- 47_flags_nop.md
  | clc                              -- R276
  | sec                              -- R277
  | cli                              -- R278
  | sei                              -- R279
  | cld                              -- R280
  | sed                              -- R281
  | clv                              -- R282
  | nop                              -- R283
  | nopImp (op : Byte)               -- R284
  | nopImm (op : Byte) (v : Byte)    -- R285
  | nopZp (op : Byte) (b : Byte)     -- R286
  | nopZpx (op : Byte) (b : Byte)    -- R287
  | nopAbs (op : Byte) (w : Word)    -- R288
  | nopAbsx (op : Byte) (w : Word)   -- R289
  | unrecognized (op : Byte)         -- R290
deriving DecidableEq, Repr

/-- The addressing mode of an instruction (30_encoding.md R112, R116, R117). BRK and the unrecognized opcodes are
Implicit. -/
def Instr.mode : Instr → Mode
  | .lda m => m.mode
  | .ldx m => m.mode
  | .ldy m => m.mode
  | .sta m => m.mode
  | .stx m => m.mode
  | .sty m => m.mode
  | .tax => .imp
  | .tay => .imp
  | .txa => .imp
  | .tya => .imp
  | .tsx => .imp
  | .txs => .imp
  | .pha => .imp
  | .php => .imp
  | .pla => .imp
  | .plp => .imp
  | .adc m => m.mode
  | .sbc m => m.mode
  | .cmp m => m.mode
  | .cpx m => m.mode
  | .cpy m => m.mode
  | .inc m => m.mode
  | .dec m => m.mode
  | .inx => .imp
  | .iny => .imp
  | .dex => .imp
  | .dey => .imp
  | .and m => m.mode
  | .ora m => m.mode
  | .eor m => m.mode
  | .bit m => m.mode
  | .asl m => m.mode
  | .lsr m => m.mode
  | .rol m => m.mode
  | .ror m => m.mode
  | .bcc _ => .rel
  | .bcs _ => .rel
  | .beq _ => .rel
  | .bne _ => .rel
  | .bmi _ => .rel
  | .bpl _ => .rel
  | .bvc _ => .rel
  | .bvs _ => .rel
  | .jmp t => t.mode
  | .jsr _ => .abs
  | .rts => .imp
  | .rti => .imp
  | .brk _ => .imp
  | .clc => .imp
  | .sec => .imp
  | .cli => .imp
  | .sei => .imp
  | .cld => .imp
  | .sed => .imp
  | .clv => .imp
  | .nop => .imp
  | .nopImp _ => .imp
  | .nopImm _ _ => .imm
  | .nopZp _ _ => .zp
  | .nopZpx _ _ => .zpx
  | .nopAbs _ _ => .abs
  | .nopAbsx _ _ => .absx
  | .unrecognized _ => .imp

end Sys2Proof
end

