-- ==== Sys2Proof/WellFormed.lean ====
section
/-!
DEFINITION. Which terms of `Instr` are instructions of the opcode map: the modes of each mnemonic (the "Operands" lines
of spec/42_load_store.md to spec/45_logic_shift.md) and the opcode sets of spec/30_encoding.md R117 and R118.
-/

namespace Sys2Proof

/-- The eight modes of LDA, ADC, SBC, CMP, AND, ORA and EOR (42_load_store.md R201, 44_arithmetic.md R226,
45_logic_shift.md R241). -/
def accModes : List Mode := [.imm, .zp, .zpx, .abs, .absx, .absy, .indx, .indy]

/-- 42_load_store.md R202. -/
def ldxModes : List Mode := [.imm, .zp, .zpy, .abs, .absy]

/-- 42_load_store.md R203. -/
def ldyModes : List Mode := [.imm, .zp, .zpx, .abs, .absx]

/-- 42_load_store.md R204. -/
def staModes : List Mode := [.zp, .zpx, .abs, .absx, .absy, .indx, .indy]

/-- 42_load_store.md R205. -/
def stxModes : List Mode := [.zp, .zpy, .abs]

/-- 42_load_store.md R206. -/
def styModes : List Mode := [.zp, .zpx, .abs]

/-- CPX and CPY: 44_arithmetic.md R229, R230. -/
def cpxModes : List Mode := [.imm, .zp, .abs]

/-- 45_logic_shift.md R244. -/
def bitModes : List Mode := [.zp, .abs]

/-- 30_encoding.md R117, 47_flags_nop.md R284. -/
def nopImpOpcodes : List Byte := [0x1A, 0x3A, 0x5A, 0x7A, 0xDA, 0xFA]

/-- 30_encoding.md R117, 47_flags_nop.md R285. -/
def nopImmOpcodes : List Byte := [0x80, 0x82, 0x89, 0xC2, 0xE2]

/-- 30_encoding.md R117, 47_flags_nop.md R286. -/
def nopZpOpcodes : List Byte := [0x04, 0x44, 0x64]

/-- 30_encoding.md R117, 47_flags_nop.md R287. -/
def nopZpxOpcodes : List Byte := [0x14, 0x34, 0x54, 0x74, 0xD4, 0xF4]

/-- 30_encoding.md R117, 47_flags_nop.md R288. -/
def nopAbsOpcodes : List Byte := [0x0C]

/-- 30_encoding.md R117, 47_flags_nop.md R289. -/
def nopAbsxOpcodes : List Byte := [0x1C, 0x3C, 0x5C, 0x7C, 0xDC, 0xFC]

/-- The 78 unrecognized opcodes (30_encoding.md R118). -/
def unrecognizedOpcodes : List Byte :=
  [0x02, 0x03, 0x07, 0x0B, 0x0F, 0x12, 0x13, 0x17, 0x1B, 0x1F, 0x22, 0x23,
   0x27, 0x2B, 0x2F, 0x32, 0x33, 0x37, 0x3B, 0x3F, 0x42, 0x43, 0x47, 0x4B,
   0x4F, 0x52, 0x53, 0x57, 0x5B, 0x5F, 0x62, 0x63, 0x67, 0x6B, 0x6F, 0x72,
   0x73, 0x77, 0x7B, 0x7F, 0x83, 0x87, 0x8B, 0x8F, 0x92, 0x93, 0x97, 0x9B,
   0x9C, 0x9E, 0x9F, 0xA3, 0xA7, 0xAB, 0xAF, 0xB2, 0xB3, 0xB7, 0xBB, 0xBF,
   0xC3, 0xC7, 0xCB, 0xCF, 0xD2, 0xD3, 0xD7, 0xDB, 0xDF, 0xE3, 0xE7, 0xEB,
   0xEF, 0xF2, 0xF3, 0xF7, 0xFB, 0xFF]

/-- An instruction of the opcode map. Every other field of every constructor is legal at every value. -/
def Instr.wellFormed : Instr → Bool
  | .lda m => accModes.contains m.mode
  | .ldx m => ldxModes.contains m.mode
  | .ldy m => ldyModes.contains m.mode
  | .sta m => staModes.contains m.mode
  | .stx m => stxModes.contains m.mode
  | .sty m => styModes.contains m.mode
  | .tax => true
  | .tay => true
  | .txa => true
  | .tya => true
  | .tsx => true
  | .txs => true
  | .pha => true
  | .php => true
  | .pla => true
  | .plp => true
  | .adc m => accModes.contains m.mode
  | .sbc m => accModes.contains m.mode
  | .cmp m => accModes.contains m.mode
  | .cpx m => cpxModes.contains m.mode
  | .cpy m => cpxModes.contains m.mode
  | .inc _ => true
  | .dec _ => true
  | .inx => true
  | .iny => true
  | .dex => true
  | .dey => true
  | .and m => accModes.contains m.mode
  | .ora m => accModes.contains m.mode
  | .eor m => accModes.contains m.mode
  | .bit m => bitModes.contains m.mode
  | .asl _ => true
  | .lsr _ => true
  | .rol _ => true
  | .ror _ => true
  | .bcc _ => true
  | .bcs _ => true
  | .beq _ => true
  | .bne _ => true
  | .bmi _ => true
  | .bpl _ => true
  | .bvc _ => true
  | .bvs _ => true
  | .jmp _ => true
  | .jsr _ => true
  | .rts => true
  | .rti => true
  | .brk _ => true
  | .clc => true
  | .sec => true
  | .cli => true
  | .sei => true
  | .cld => true
  | .sed => true
  | .clv => true
  | .nop => true
  | .nopImp op => nopImpOpcodes.contains op
  | .nopImm op _ => nopImmOpcodes.contains op
  | .nopZp op _ => nopZpOpcodes.contains op
  | .nopZpx op _ => nopZpxOpcodes.contains op
  | .nopAbs op _ => nopAbsOpcodes.contains op
  | .nopAbsx op _ => nopAbsxOpcodes.contains op
  | .unrecognized op => unrecognizedOpcodes.contains op

end Sys2Proof
end

