-- ==== Sys2Proof/Decode.lean ====
section
/-!
DEFINITION. Decoding and encoding (spec/30_encoding.md). The decode table is the dense 256-entry table of R114 to R119,
in opcode order; decoding is total on any bytes and refuses a list too short by name. After it, the encoder, written
from the "Encoding" lines of the instruction rules (42_load_store.md to 47_flags_nop.md) and the operand order of R112.
The opcode bytes and cycle counts are the spec's, which it marks as general knowledge (D11, D14; log 18).
-/

namespace Sys2Proof

/-! ## Bytes and words (00_scope.md R9, R10) -/

/-- `lo(w) = w[7:0]` -/
def lo8 (w : Word) : Byte := w.extractLsb' 0 8

/-- `hi(w) = w[15:8]` -/
def hi8 (w : Word) : Byte := w.extractLsb' 8 8

/-- `(hi << 8) | lo`: little-endian, the low byte first (R113, 20_memory.md R86). -/
def wordOf (lo hi : Byte) : Word := hi ++ lo

/-- `zext_16(v)` -/
def zext16 (v : Byte) : Word := v.setWidth 16

/-- `sext_16(v)` -/
def sext16 (v : Byte) : Word := v.signExtend 16

/-! ## The decode table -/

/-- The class of a decode entry (R115). -/
inductive OpClass where
  | documented
  | illegalNop
  | unrecognized
deriving DecidableEq, Repr

/-- A decode entry (R115): class, addressing mode, base cycles, the "+1 on page cross" and the branch flag; `make` is the
mnemonic family applied to operand bytes 1 and 2. -/
structure DecodeEntry where
  cls : OpClass
  mode : Mode
  base : Nat
  pageCross : Bool
  branch : Bool
  make : Byte → Byte → Instr

def doc (m : Mode) (base : Nat) (make : Byte → Byte → Instr) : DecodeEntry :=
  ⟨.documented, m, base, false, false, make⟩

def docPc (m : Mode) (base : Nat) (make : Byte → Byte → Instr) : DecodeEntry :=
  ⟨.documented, m, base, true, false, make⟩

def docBr (m : Mode) (base : Nat) (make : Byte → Byte → Instr) : DecodeEntry :=
  ⟨.documented, m, base, false, true, make⟩

def ill (m : Mode) (base : Nat) (make : Byte → Byte → Instr) : DecodeEntry :=
  ⟨.illegalNop, m, base, false, false, make⟩

def illPc (m : Mode) (base : Nat) (make : Byte → Byte → Instr) : DecodeEntry :=
  ⟨.illegalNop, m, base, true, false, make⟩

def unrec (op : Byte) : DecodeEntry :=
  ⟨.unrecognized, .imp, 2, false, false, fun _ _ => .unrecognized op⟩

/-- Opcodes 0x00 to 0x0F. -/
def opcodeRow0 : List DecodeEntry :=
  [ doc .imp 7 (fun b _ => .brk b),
    doc .indx 6 (fun b _ => .ora (.mem (.indx b))),
    unrec 0x02,
    unrec 0x03,
    ill .zp 3 (fun b _ => .nopZp 0x04 b),
    doc .zp 3 (fun b _ => .ora (.mem (.zp b))),
    doc .zp 5 (fun b _ => .asl (.mem (.zp b))),
    unrec 0x07,
    doc .imp 3 (fun _ _ => .php),
    doc .imm 2 (fun b _ => .ora (.imm b)),
    doc .acc 2 (fun _ _ => .asl .acc),
    unrec 0x0B,
    ill .abs 4 (fun b c => .nopAbs 0x0C (wordOf b c)),
    doc .abs 4 (fun b c => .ora (.mem (.abs (wordOf b c)))),
    doc .abs 6 (fun b c => .asl (.mem (.abs (wordOf b c)))),
    unrec 0x0F ]

/-- Opcodes 0x10 to 0x1F. -/
def opcodeRow1 : List DecodeEntry :=
  [ docBr .rel 2 (fun b _ => .bpl b),
    docPc .indy 5 (fun b _ => .ora (.mem (.indy b))),
    unrec 0x12,
    unrec 0x13,
    ill .zpx 4 (fun b _ => .nopZpx 0x14 b),
    doc .zpx 4 (fun b _ => .ora (.mem (.zpx b))),
    doc .zpx 6 (fun b _ => .asl (.mem (.zpx b))),
    unrec 0x17,
    doc .imp 2 (fun _ _ => .clc),
    docPc .absy 4 (fun b c => .ora (.mem (.absy (wordOf b c)))),
    ill .imp 2 (fun _ _ => .nopImp 0x1A),
    unrec 0x1B,
    illPc .absx 4 (fun b c => .nopAbsx 0x1C (wordOf b c)),
    docPc .absx 4 (fun b c => .ora (.mem (.absx (wordOf b c)))),
    doc .absx 7 (fun b c => .asl (.mem (.absx (wordOf b c)))),
    unrec 0x1F ]

/-- Opcodes 0x20 to 0x2F. -/
def opcodeRow2 : List DecodeEntry :=
  [ doc .abs 6 (fun b c => .jsr (wordOf b c)),
    doc .indx 6 (fun b _ => .and (.mem (.indx b))),
    unrec 0x22,
    unrec 0x23,
    doc .zp 3 (fun b _ => .bit (.zp b)),
    doc .zp 3 (fun b _ => .and (.mem (.zp b))),
    doc .zp 5 (fun b _ => .rol (.mem (.zp b))),
    unrec 0x27,
    doc .imp 4 (fun _ _ => .plp),
    doc .imm 2 (fun b _ => .and (.imm b)),
    doc .acc 2 (fun _ _ => .rol .acc),
    unrec 0x2B,
    doc .abs 4 (fun b c => .bit (.abs (wordOf b c))),
    doc .abs 4 (fun b c => .and (.mem (.abs (wordOf b c)))),
    doc .abs 6 (fun b c => .rol (.mem (.abs (wordOf b c)))),
    unrec 0x2F ]

/-- Opcodes 0x30 to 0x3F. -/
def opcodeRow3 : List DecodeEntry :=
  [ docBr .rel 2 (fun b _ => .bmi b),
    docPc .indy 5 (fun b _ => .and (.mem (.indy b))),
    unrec 0x32,
    unrec 0x33,
    ill .zpx 4 (fun b _ => .nopZpx 0x34 b),
    doc .zpx 4 (fun b _ => .and (.mem (.zpx b))),
    doc .zpx 6 (fun b _ => .rol (.mem (.zpx b))),
    unrec 0x37,
    doc .imp 2 (fun _ _ => .sec),
    docPc .absy 4 (fun b c => .and (.mem (.absy (wordOf b c)))),
    ill .imp 2 (fun _ _ => .nopImp 0x3A),
    unrec 0x3B,
    illPc .absx 4 (fun b c => .nopAbsx 0x3C (wordOf b c)),
    docPc .absx 4 (fun b c => .and (.mem (.absx (wordOf b c)))),
    doc .absx 7 (fun b c => .rol (.mem (.absx (wordOf b c)))),
    unrec 0x3F ]

/-- Opcodes 0x40 to 0x4F. -/
def opcodeRow4 : List DecodeEntry :=
  [ doc .imp 6 (fun _ _ => .rti),
    doc .indx 6 (fun b _ => .eor (.mem (.indx b))),
    unrec 0x42,
    unrec 0x43,
    ill .zp 3 (fun b _ => .nopZp 0x44 b),
    doc .zp 3 (fun b _ => .eor (.mem (.zp b))),
    doc .zp 5 (fun b _ => .lsr (.mem (.zp b))),
    unrec 0x47,
    doc .imp 3 (fun _ _ => .pha),
    doc .imm 2 (fun b _ => .eor (.imm b)),
    doc .acc 2 (fun _ _ => .lsr .acc),
    unrec 0x4B,
    doc .abs 3 (fun b c => .jmp (.abs (wordOf b c))),
    doc .abs 4 (fun b c => .eor (.mem (.abs (wordOf b c)))),
    doc .abs 6 (fun b c => .lsr (.mem (.abs (wordOf b c)))),
    unrec 0x4F ]

/-- Opcodes 0x50 to 0x5F. -/
def opcodeRow5 : List DecodeEntry :=
  [ docBr .rel 2 (fun b _ => .bvc b),
    docPc .indy 5 (fun b _ => .eor (.mem (.indy b))),
    unrec 0x52,
    unrec 0x53,
    ill .zpx 4 (fun b _ => .nopZpx 0x54 b),
    doc .zpx 4 (fun b _ => .eor (.mem (.zpx b))),
    doc .zpx 6 (fun b _ => .lsr (.mem (.zpx b))),
    unrec 0x57,
    doc .imp 2 (fun _ _ => .cli),
    docPc .absy 4 (fun b c => .eor (.mem (.absy (wordOf b c)))),
    ill .imp 2 (fun _ _ => .nopImp 0x5A),
    unrec 0x5B,
    illPc .absx 4 (fun b c => .nopAbsx 0x5C (wordOf b c)),
    docPc .absx 4 (fun b c => .eor (.mem (.absx (wordOf b c)))),
    doc .absx 7 (fun b c => .lsr (.mem (.absx (wordOf b c)))),
    unrec 0x5F ]

/-- Opcodes 0x60 to 0x6F. -/
def opcodeRow6 : List DecodeEntry :=
  [ doc .imp 6 (fun _ _ => .rts),
    doc .indx 6 (fun b _ => .adc (.mem (.indx b))),
    unrec 0x62,
    unrec 0x63,
    ill .zp 3 (fun b _ => .nopZp 0x64 b),
    doc .zp 3 (fun b _ => .adc (.mem (.zp b))),
    doc .zp 5 (fun b _ => .ror (.mem (.zp b))),
    unrec 0x67,
    doc .imp 4 (fun _ _ => .pla),
    doc .imm 2 (fun b _ => .adc (.imm b)),
    doc .acc 2 (fun _ _ => .ror .acc),
    unrec 0x6B,
    doc .ind 5 (fun b c => .jmp (.ind (wordOf b c))),
    doc .abs 4 (fun b c => .adc (.mem (.abs (wordOf b c)))),
    doc .abs 6 (fun b c => .ror (.mem (.abs (wordOf b c)))),
    unrec 0x6F ]

/-- Opcodes 0x70 to 0x7F. -/
def opcodeRow7 : List DecodeEntry :=
  [ docBr .rel 2 (fun b _ => .bvs b),
    docPc .indy 5 (fun b _ => .adc (.mem (.indy b))),
    unrec 0x72,
    unrec 0x73,
    ill .zpx 4 (fun b _ => .nopZpx 0x74 b),
    doc .zpx 4 (fun b _ => .adc (.mem (.zpx b))),
    doc .zpx 6 (fun b _ => .ror (.mem (.zpx b))),
    unrec 0x77,
    doc .imp 2 (fun _ _ => .sei),
    docPc .absy 4 (fun b c => .adc (.mem (.absy (wordOf b c)))),
    ill .imp 2 (fun _ _ => .nopImp 0x7A),
    unrec 0x7B,
    illPc .absx 4 (fun b c => .nopAbsx 0x7C (wordOf b c)),
    docPc .absx 4 (fun b c => .adc (.mem (.absx (wordOf b c)))),
    doc .absx 7 (fun b c => .ror (.mem (.absx (wordOf b c)))),
    unrec 0x7F ]

/-- Opcodes 0x80 to 0x8F. -/
def opcodeRow8 : List DecodeEntry :=
  [ ill .imm 2 (fun b _ => .nopImm 0x80 b),
    doc .indx 6 (fun b _ => .sta (.indx b)),
    ill .imm 2 (fun b _ => .nopImm 0x82 b),
    unrec 0x83,
    doc .zp 3 (fun b _ => .sty (.zp b)),
    doc .zp 3 (fun b _ => .sta (.zp b)),
    doc .zp 3 (fun b _ => .stx (.zp b)),
    unrec 0x87,
    doc .imp 2 (fun _ _ => .dey),
    ill .imm 2 (fun b _ => .nopImm 0x89 b),
    doc .imp 2 (fun _ _ => .txa),
    unrec 0x8B,
    doc .abs 4 (fun b c => .sty (.abs (wordOf b c))),
    doc .abs 4 (fun b c => .sta (.abs (wordOf b c))),
    doc .abs 4 (fun b c => .stx (.abs (wordOf b c))),
    unrec 0x8F ]

/-- Opcodes 0x90 to 0x9F. -/
def opcodeRow9 : List DecodeEntry :=
  [ docBr .rel 2 (fun b _ => .bcc b),
    doc .indy 6 (fun b _ => .sta (.indy b)),
    unrec 0x92,
    unrec 0x93,
    doc .zpx 4 (fun b _ => .sty (.zpx b)),
    doc .zpx 4 (fun b _ => .sta (.zpx b)),
    doc .zpy 4 (fun b _ => .stx (.zpy b)),
    unrec 0x97,
    doc .imp 2 (fun _ _ => .tya),
    doc .absy 5 (fun b c => .sta (.absy (wordOf b c))),
    doc .imp 2 (fun _ _ => .txs),
    unrec 0x9B,
    unrec 0x9C,
    doc .absx 5 (fun b c => .sta (.absx (wordOf b c))),
    unrec 0x9E,
    unrec 0x9F ]

/-- Opcodes 0xA0 to 0xAF. -/
def opcodeRowA : List DecodeEntry :=
  [ doc .imm 2 (fun b _ => .ldy (.imm b)),
    doc .indx 6 (fun b _ => .lda (.mem (.indx b))),
    doc .imm 2 (fun b _ => .ldx (.imm b)),
    unrec 0xA3,
    doc .zp 3 (fun b _ => .ldy (.mem (.zp b))),
    doc .zp 3 (fun b _ => .lda (.mem (.zp b))),
    doc .zp 3 (fun b _ => .ldx (.mem (.zp b))),
    unrec 0xA7,
    doc .imp 2 (fun _ _ => .tay),
    doc .imm 2 (fun b _ => .lda (.imm b)),
    doc .imp 2 (fun _ _ => .tax),
    unrec 0xAB,
    doc .abs 4 (fun b c => .ldy (.mem (.abs (wordOf b c)))),
    doc .abs 4 (fun b c => .lda (.mem (.abs (wordOf b c)))),
    doc .abs 4 (fun b c => .ldx (.mem (.abs (wordOf b c)))),
    unrec 0xAF ]

/-- Opcodes 0xB0 to 0xBF. -/
def opcodeRowB : List DecodeEntry :=
  [ docBr .rel 2 (fun b _ => .bcs b),
    docPc .indy 5 (fun b _ => .lda (.mem (.indy b))),
    unrec 0xB2,
    unrec 0xB3,
    doc .zpx 4 (fun b _ => .ldy (.mem (.zpx b))),
    doc .zpx 4 (fun b _ => .lda (.mem (.zpx b))),
    doc .zpy 4 (fun b _ => .ldx (.mem (.zpy b))),
    unrec 0xB7,
    doc .imp 2 (fun _ _ => .clv),
    docPc .absy 4 (fun b c => .lda (.mem (.absy (wordOf b c)))),
    doc .imp 2 (fun _ _ => .tsx),
    unrec 0xBB,
    docPc .absx 4 (fun b c => .ldy (.mem (.absx (wordOf b c)))),
    docPc .absx 4 (fun b c => .lda (.mem (.absx (wordOf b c)))),
    docPc .absy 4 (fun b c => .ldx (.mem (.absy (wordOf b c)))),
    unrec 0xBF ]

/-- Opcodes 0xC0 to 0xCF. -/
def opcodeRowC : List DecodeEntry :=
  [ doc .imm 2 (fun b _ => .cpy (.imm b)),
    doc .indx 6 (fun b _ => .cmp (.mem (.indx b))),
    ill .imm 2 (fun b _ => .nopImm 0xC2 b),
    unrec 0xC3,
    doc .zp 3 (fun b _ => .cpy (.mem (.zp b))),
    doc .zp 3 (fun b _ => .cmp (.mem (.zp b))),
    doc .zp 5 (fun b _ => .dec (.zp b)),
    unrec 0xC7,
    doc .imp 2 (fun _ _ => .iny),
    doc .imm 2 (fun b _ => .cmp (.imm b)),
    doc .imp 2 (fun _ _ => .dex),
    unrec 0xCB,
    doc .abs 4 (fun b c => .cpy (.mem (.abs (wordOf b c)))),
    doc .abs 4 (fun b c => .cmp (.mem (.abs (wordOf b c)))),
    doc .abs 6 (fun b c => .dec (.abs (wordOf b c))),
    unrec 0xCF ]

/-- Opcodes 0xD0 to 0xDF. -/
def opcodeRowD : List DecodeEntry :=
  [ docBr .rel 2 (fun b _ => .bne b),
    docPc .indy 5 (fun b _ => .cmp (.mem (.indy b))),
    unrec 0xD2,
    unrec 0xD3,
    ill .zpx 4 (fun b _ => .nopZpx 0xD4 b),
    doc .zpx 4 (fun b _ => .cmp (.mem (.zpx b))),
    doc .zpx 6 (fun b _ => .dec (.zpx b)),
    unrec 0xD7,
    doc .imp 2 (fun _ _ => .cld),
    docPc .absy 4 (fun b c => .cmp (.mem (.absy (wordOf b c)))),
    ill .imp 2 (fun _ _ => .nopImp 0xDA),
    unrec 0xDB,
    illPc .absx 4 (fun b c => .nopAbsx 0xDC (wordOf b c)),
    docPc .absx 4 (fun b c => .cmp (.mem (.absx (wordOf b c)))),
    doc .absx 7 (fun b c => .dec (.absx (wordOf b c))),
    unrec 0xDF ]

/-- Opcodes 0xE0 to 0xEF. -/
def opcodeRowE : List DecodeEntry :=
  [ doc .imm 2 (fun b _ => .cpx (.imm b)),
    doc .indx 6 (fun b _ => .sbc (.mem (.indx b))),
    ill .imm 2 (fun b _ => .nopImm 0xE2 b),
    unrec 0xE3,
    doc .zp 3 (fun b _ => .cpx (.mem (.zp b))),
    doc .zp 3 (fun b _ => .sbc (.mem (.zp b))),
    doc .zp 5 (fun b _ => .inc (.zp b)),
    unrec 0xE7,
    doc .imp 2 (fun _ _ => .inx),
    doc .imm 2 (fun b _ => .sbc (.imm b)),
    doc .imp 2 (fun _ _ => .nop),
    unrec 0xEB,
    doc .abs 4 (fun b c => .cpx (.mem (.abs (wordOf b c)))),
    doc .abs 4 (fun b c => .sbc (.mem (.abs (wordOf b c)))),
    doc .abs 6 (fun b c => .inc (.abs (wordOf b c))),
    unrec 0xEF ]

/-- Opcodes 0xF0 to 0xFF. -/
def opcodeRowF : List DecodeEntry :=
  [ docBr .rel 2 (fun b _ => .beq b),
    docPc .indy 5 (fun b _ => .sbc (.mem (.indy b))),
    unrec 0xF2,
    unrec 0xF3,
    ill .zpx 4 (fun b _ => .nopZpx 0xF4 b),
    doc .zpx 4 (fun b _ => .sbc (.mem (.zpx b))),
    doc .zpx 6 (fun b _ => .inc (.zpx b)),
    unrec 0xF7,
    doc .imp 2 (fun _ _ => .sed),
    docPc .absy 4 (fun b c => .sbc (.mem (.absy (wordOf b c)))),
    ill .imp 2 (fun _ _ => .nopImp 0xFA),
    unrec 0xFB,
    illPc .absx 4 (fun b c => .nopAbsx 0xFC (wordOf b c)),
    docPc .absx 4 (fun b c => .sbc (.mem (.absx (wordOf b c)))),
    doc .absx 7 (fun b c => .inc (.absx (wordOf b c))),
    unrec 0xFF ]

/-- The dense 256-entry table (R114, R116 to R119). -/
def decodeTable : List DecodeEntry :=
  opcodeRow0 ++ opcodeRow1 ++ opcodeRow2 ++ opcodeRow3 ++ opcodeRow4 ++ opcodeRow5 ++ opcodeRow6 ++ opcodeRow7 ++
  opcodeRow8 ++ opcodeRow9 ++ opcodeRowA ++ opcodeRowB ++ opcodeRowC ++ opcodeRowD ++ opcodeRowE ++ opcodeRowF

/-- `DecodeTable[op]` (R121). The table has 256 entries, so the last argument is never used. -/
def entryOf (op : Byte) : DecodeEntry := decodeTable.getD op.toNat (unrec op)

/-- The instruction of an opcode byte and the two bytes after it (R114): total, and a function of nothing else. The bytes
an instruction does not have are ignored. -/
def decodeOp (op b1 b2 : Byte) : Instr := (entryOf op).make b1 b2

/-- The operand bytes of a mode (R112, less the opcode byte). -/
def Mode.operandCount : Mode → Nat
  | .imp => 0
  | .acc => 0
  | .imm => 1
  | .zp => 1
  | .zpx => 1
  | .zpy => 1
  | .abs => 2
  | .absx => 2
  | .absy => 2
  | .ind => 2
  | .indx => 1
  | .indy => 1
  | .rel => 1

/-- The length of an instruction in bytes (R111, R112): its mode's, but BRK takes 2 bytes. -/
def Instr.length : Instr → Nat
  | .brk _ => 2
  | i => i.mode.operandCount + 1

/-- How many operand bytes are fetched before the operation executes (R121, 10_state.md R46): the mode's, but JSR
fetches its last byte after its pushes (46_control.md R266). BRK, Implicit, fetches none (R269). -/
def Instr.fetches : Instr → Nat
  | .jsr _ => 1
  | i => i.mode.operandCount

/-- Why a list of bytes is no instruction: no opcode byte, or an operand byte of this opcode is missing. -/
inductive DecodeReject where
  | noOpcode
  | missingOperand (op : Byte)
deriving DecidableEq, Repr

/-- An instruction at the head of a list of bytes, and the bytes after it (R111). -/
def decode : List Byte → Except DecodeReject (Instr × List Byte)
  | [] => .error .noOpcode
  | op :: rest =>
    match (decodeOp op 0#8 0#8).length, rest with
    | 1, rest => .ok (decodeOp op 0#8 0#8, rest)
    | 2, b1 :: rest => .ok (decodeOp op b1 0#8, rest)
    | 3, b1 :: b2 :: rest => .ok (decodeOp op b1 b2, rest)
    | _, _ => .error (.missingOperand op)

/-! ## The encoder -/

/-- The opcode byte that stands at a mode's place in an "Encoding" line. -/
def opcodeAt (modes : List Mode) (bytes : List Byte) (m : Mode) : Option Byte := (modes.zip bytes).lookup m

/-- The modes of ASL, LSR, ROL and ROR (45_logic_shift.md R245). -/
def shiftModes : List Mode := [.acc, .zp, .zpx, .abs, .absx]

/-- The modes of INC and DEC (44_arithmetic.md R231, R232). -/
def incModes : List Mode := [.zp, .zpx, .abs, .absx]

/-- The opcode byte of an instruction: the "Encoding" line of its rule. None where the instruction has no such mode. -/
def Instr.opcode? : Instr → Option Byte
  | .lda m => opcodeAt accModes [0xA9, 0xA5, 0xB5, 0xAD, 0xBD, 0xB9, 0xA1, 0xB1] m.mode
  | .ldx m => opcodeAt ldxModes [0xA2, 0xA6, 0xB6, 0xAE, 0xBE] m.mode
  | .ldy m => opcodeAt ldyModes [0xA0, 0xA4, 0xB4, 0xAC, 0xBC] m.mode
  | .sta m => opcodeAt staModes [0x85, 0x95, 0x8D, 0x9D, 0x99, 0x81, 0x91] m.mode
  | .stx m => opcodeAt stxModes [0x86, 0x96, 0x8E] m.mode
  | .sty m => opcodeAt styModes [0x84, 0x94, 0x8C] m.mode
  | .tax => some 0xAA
  | .tay => some 0xA8
  | .txa => some 0x8A
  | .tya => some 0x98
  | .tsx => some 0xBA
  | .txs => some 0x9A
  | .pha => some 0x48
  | .php => some 0x08
  | .pla => some 0x68
  | .plp => some 0x28
  | .adc m => opcodeAt accModes [0x69, 0x65, 0x75, 0x6D, 0x7D, 0x79, 0x61, 0x71] m.mode
  | .sbc m => opcodeAt accModes [0xE9, 0xE5, 0xF5, 0xED, 0xFD, 0xF9, 0xE1, 0xF1] m.mode
  | .cmp m => opcodeAt accModes [0xC9, 0xC5, 0xD5, 0xCD, 0xDD, 0xD9, 0xC1, 0xD1] m.mode
  | .cpx m => opcodeAt cpxModes [0xE0, 0xE4, 0xEC] m.mode
  | .cpy m => opcodeAt cpxModes [0xC0, 0xC4, 0xCC] m.mode
  | .inc m => opcodeAt incModes [0xE6, 0xF6, 0xEE, 0xFE] m.mode
  | .dec m => opcodeAt incModes [0xC6, 0xD6, 0xCE, 0xDE] m.mode
  | .inx => some 0xE8
  | .iny => some 0xC8
  | .dex => some 0xCA
  | .dey => some 0x88
  | .and m => opcodeAt accModes [0x29, 0x25, 0x35, 0x2D, 0x3D, 0x39, 0x21, 0x31] m.mode
  | .ora m => opcodeAt accModes [0x09, 0x05, 0x15, 0x0D, 0x1D, 0x19, 0x01, 0x11] m.mode
  | .eor m => opcodeAt accModes [0x49, 0x45, 0x55, 0x4D, 0x5D, 0x59, 0x41, 0x51] m.mode
  | .bit m => opcodeAt bitModes [0x24, 0x2C] m.mode
  | .asl m => opcodeAt shiftModes [0x0A, 0x06, 0x16, 0x0E, 0x1E] m.mode
  | .lsr m => opcodeAt shiftModes [0x4A, 0x46, 0x56, 0x4E, 0x5E] m.mode
  | .rol m => opcodeAt shiftModes [0x2A, 0x26, 0x36, 0x2E, 0x3E] m.mode
  | .ror m => opcodeAt shiftModes [0x6A, 0x66, 0x76, 0x6E, 0x7E] m.mode
  | .bcc _ => some 0x90
  | .bcs _ => some 0xB0
  | .beq _ => some 0xF0
  | .bne _ => some 0xD0
  | .bmi _ => some 0x30
  | .bpl _ => some 0x10
  | .bvc _ => some 0x50
  | .bvs _ => some 0x70
  | .jmp (.abs _) => some 0x4C
  | .jmp (.ind _) => some 0x6C
  | .jsr _ => some 0x20
  | .rts => some 0x60
  | .rti => some 0x40
  | .brk _ => some 0x00
  | .clc => some 0x18
  | .sec => some 0x38
  | .cli => some 0x58
  | .sei => some 0x78
  | .cld => some 0xD8
  | .sed => some 0xF8
  | .clv => some 0xB8
  | .nop => some 0xEA
  | .nopImp op => some op
  | .nopImm op _ => some op
  | .nopZp op _ => some op
  | .nopZpx op _ => some op
  | .nopAbs op _ => some op
  | .nopAbsx op _ => some op
  | .unrecognized op => some op

/-- A two-byte operand in memory order (R113). -/
def wordBytes (w : Word) : List Byte := [lo8 w, hi8 w]

def Mem.operandBytes : Mem → List Byte
  | .zp b => [b]
  | .zpx b => [b]
  | .zpy b => [b]
  | .abs w => wordBytes w
  | .absx w => wordBytes w
  | .absy w => wordBytes w
  | .indx b => [b]
  | .indy b => [b]

def Src.operandBytes : Src → List Byte
  | .imm v => [v]
  | .mem m => m.operandBytes

def Rmw.operandBytes : Rmw → List Byte
  | .acc => []
  | .mem m => m.toMem.operandBytes

def JmpOperand.operandBytes : JmpOperand → List Byte
  | .abs w => wordBytes w
  | .ind w => wordBytes w

/-- The bytes after the opcode byte (R112). -/
def Instr.operandBytes : Instr → List Byte
  | .lda m => m.operandBytes
  | .ldx m => m.operandBytes
  | .ldy m => m.operandBytes
  | .sta m => m.operandBytes
  | .stx m => m.operandBytes
  | .sty m => m.operandBytes
  | .tax => []
  | .tay => []
  | .txa => []
  | .tya => []
  | .tsx => []
  | .txs => []
  | .pha => []
  | .php => []
  | .pla => []
  | .plp => []
  | .adc m => m.operandBytes
  | .sbc m => m.operandBytes
  | .cmp m => m.operandBytes
  | .cpx m => m.operandBytes
  | .cpy m => m.operandBytes
  | .inc m => m.toMem.operandBytes
  | .dec m => m.toMem.operandBytes
  | .inx => []
  | .iny => []
  | .dex => []
  | .dey => []
  | .and m => m.operandBytes
  | .ora m => m.operandBytes
  | .eor m => m.operandBytes
  | .bit m => m.operandBytes
  | .asl m => m.operandBytes
  | .lsr m => m.operandBytes
  | .rol m => m.operandBytes
  | .ror m => m.operandBytes
  | .bcc o => [o]
  | .bcs o => [o]
  | .beq o => [o]
  | .bne o => [o]
  | .bmi o => [o]
  | .bpl o => [o]
  | .bvc o => [o]
  | .bvs o => [o]
  | .jmp t => t.operandBytes
  | .jsr target => wordBytes target
  | .rts => []
  | .rti => []
  | .brk signature => [signature]
  | .clc => []
  | .sec => []
  | .cli => []
  | .sei => []
  | .cld => []
  | .sed => []
  | .clv => []
  | .nop => []
  | .nopImp _ => []
  | .nopImm _ v => [v]
  | .nopZp _ b => [b]
  | .nopZpx _ b => [b]
  | .nopAbs _ w => wordBytes w
  | .nopAbsx _ w => wordBytes w
  | .unrecognized _ => []

/-- The bytes of a well-formed instruction, in memory order. A term that is no instruction has none. -/
def encode (i : Instr) : List Byte :=
  match i.opcode? with
  | some op => op :: i.operandBytes
  | none => []

/-! ## A row of opcode_table.json as a number -/

/-- The three bytes, the longest an instruction has, of an instruction given as `nbits` bits of `w`, first byte lowest;
every bit above `nbits` is 0. -/
def tableBytes (nbits w : Nat) : List Byte :=
  let v := w % 2 ^ nbits
  [BitVec.ofNat 8 v, BitVec.ofNat 8 (v / 2 ^ 8), BitVec.ofNat 8 (v / 2 ^ 16)]

/-- The instruction the decoder reads from those bytes. -/
def decodeTableWord (nbits w : Nat) : Option Instr :=
  match decode (tableBytes nbits w) with
  | .ok (i, _) => some i
  | .error _ => none

end Sys2Proof
end

