-- ==== Sys2Proof/Config.lean ====
section
/-!
DEFINITION. What the spec leaves to the implementation: the named parameters of spec/00_scope.md R8, and the
free values (the spec's draws, R12) as one opaque constant.
-/

namespace Sys2Proof

/-- `P_DECIMAL_NV`: where decimal ADC takes N and V from (00_scope.md R8, 41_alu.md R182). -/
inductive DecimalNV where
  | binary
  | nmosIntermediate
deriving DecidableEq, Repr

/-- `P_RESET_SP`: how the RESET sequence sets SP (00_scope.md R8, 60_exceptions.md R306). -/
inductive ResetSP where
  | decrement3
  | forceFD
deriving DecidableEq, Repr

/-- The named parameters of 00_scope.md R8 (the bus, the fifth of them, is `State.mem` and `State.oracle`). They are
plain data of the state that no step changes, so that every claim is about every setting (log 8). -/
structure Params where
  /-- `P_UNRECOGNIZED_ADVANCE` -/
  unrecognizedAdvance : Bool
  /-- `P_DECIMAL_NV` -/
  decimalNV : DecimalNV
  /-- `P_IRQ_CLEAR_ON_SERVICE` -/
  irqClearOnService : Bool
  /-- `P_RESET_SP` -/
  resetSP : ResetSP
deriving DecidableEq, Repr

/-- The defaults of 00_scope.md R8. -/
def Params.default : Params where
  unrecognizedAdvance := true
  decimalNV := .binary
  irqClearOnService := true
  resetSP := .decrement3

/-- The draws of 00_scope.md R12: the value the k-th draw gives. It has no body, so a claim holds whatever is
drawn (log 1). -/
opaque Config.freeByte : Nat → Byte

end Sys2Proof
end

