-- ==== Sys2Proof/Machine/State.lean ====
section
/-!
DEFINITION. Everything the machine holds (spec/10_state.md R41 to R65), what a tick hands to the host
(spec/30_encoding.md R123, spec/20_memory.md R90), the host's memory (R81, R82, R101) and the parameters (R8), as plain data.
-/

namespace Sys2Proof.Machine

/-- Why the machine stops with a fault: never. "No item of this block is a fault" (93_implementation_defined.md; 60_exceptions.md
R316), so nothing raises one. Safe (log 20). -/
inductive Fault where
deriving DecidableEq, Repr

/-- Why the model has no step. -/
inductive Refusal where
  /-- An instruction rejected by name, raised by a refused arm of `exec` alone; there is none. Safe. -/
  | notModelled (mnemonic : String)
  /-- `tick` before any reset (70_reset_and_hazards.md R334): the host has broken its duty. Raised by `step` when
  `started = 0` and `reset_pending = 0`. Safe: the spec itself refuses the tick. -/
  | tickBeforeReset
deriving DecidableEq, Repr

/-- The addresses `base` to `base + size - 1`. -/
structure Region where
  base : Nat
  size : Nat
deriving DecidableEq, Repr

/-- One bus access (20_memory.md R82, R83, R88): its address and its byte. -/
inductive BusAccess where
  | read (addr : Word) (value : Byte)
  | write (addr : Word) (value : Byte)
deriving DecidableEq, Repr

/-- The result of a tick (30_encoding.md R123). -/
structure TickResult where
  cyclesConsumed : Nat
  opcodeObserved : Byte
  recognized : Bool
deriving DecidableEq, Repr

/-- The host's plain memory: (address, byte) cells in the canonical form of `Memory.wf`. An unlisted address reads 0x00
(DESIGN CHOICE, log 5). -/
abbrev Memory := List Host.Cell

/-- The state. The first ten fields are the block's own (10_state.md R41). -/
structure State where
  /-- The accumulator (R42). -/
  a : Byte
  /-- Index register X (R43). -/
  x : Byte
  /-- Index register Y (R43). -/
  y : Byte
  /-- The stack pointer, the low byte of the stack address (R44). -/
  sp : Byte
  /-- The program counter (R45, R46). -/
  pc : Word
  /-- The status register, N V 1 B D I Z C from bit 7 to bit 0 (R47). -/
  p : Byte
  /-- R58 -/
  resetPending : Bool
  /-- R59 -/
  nmiPending : Bool
  /-- R60 -/
  irqPending : Bool
  /-- Whether a RESET sequence has run since construction (R61). -/
  started : Bool
  /-- The bytes of the host's plain memory (20_memory.md R101). -/
  mem : Memory
  /-- The address ranges the host has not declared plain memory: a read there answers anything (20_memory.md R82, R101;
  log 6). -/
  oracle : List Region
  /-- The named parameters (00_scope.md R8). -/
  params : Params
  /-- The model's own: the index of the next free value (00_scope.md R12; log 1). -/
  draws : Nat
  /-- The bus accesses of the tick, oldest first (00_scope.md R6; 20_memory.md R95; log 14). -/
  bus : List BusAccess
  /-- The result of the tick (30_encoding.md R123; log 14). -/
  result : TickResult
deriving DecidableEq, Repr

/-- The machine right after reset: a constructed block on which the host has called `reset()` and whose first tick has run
the RESET sequence (10_state.md R65, 70_reset_and_hazards.md R332, R335), the memory listing nothing. A, X, Y, N, V, Z, C
are unspecified there: 0 is a DESIGN CHOICE (log 2). PC is `ReadWord(0xFFFC)` of that memory (log 3). -/
def State.reset : State where
  a := 0x00#8
  x := 0x00#8
  y := 0x00#8
  sp := 0xFD#8
  pc := 0x0000#16
  p := 0x24#8
  resetPending := false
  nmiPending := false
  irqPending := false
  started := true
  mem := []
  oracle := []
  params := Params.default
  draws := 0
  bus := [.read 0xFFFC#16 0x00#8, .read 0xFFFD#16 0x00#8]
  result := ⟨7, 0x00#8, true⟩

end Sys2Proof.Machine
end

