-- ==== Sys2Proof/Machine/Flags.lean ====
section
/-!
DEFINITION. The status register P (spec/10_state.md R47 to R57) and the 6502_alu (spec/41_alu.md): the pure functions that
compute results and flags.
-/

namespace Sys2Proof.Machine

/-! ## P -/

/-- The flags of live P (10_state.md R47). Bit 5 always reads 1 and bit 4 always 0 there (R48, R49). -/
inductive Flag where
  | n | v | d | i | z | c
deriving DecidableEq, Repr

/-- The bit of P that holds a flag (10_state.md R47). -/
def Flag.bit : Flag → Nat
  | .n => 7
  | .v => 6
  | .d => 3
  | .i => 2
  | .z => 1
  | .c => 0

/-- `p` with bit `k` replaced by `b`. -/
def putBit (p : Byte) (k : Nat) (b : Bool) : Byte :=
  if b then p ||| (1#8 <<< k) else p &&& ~~~(1#8 <<< k)

/-- A bit as a byte, 0 or 1 (`bool(c)` of 00_scope.md R10). -/
def bitByte (b : Bool) : Byte := if b then 1#8 else 0#8

/-- One flag of a status byte. -/
def flagOf (p : Byte) (f : Flag) : Bool := p.getLsbD f.bit

/-- Read one flag of P. -/
def State.flag (s : State) (f : Flag) : Bool := flagOf s.p f

/-- Write one flag of P and nothing else. -/
def State.setFlag (s : State) (f : Flag) (b : Bool) : State := { s with p := putBit s.p f.bit b }

/-- `PushedP(b)` of a status byte (10_state.md R56). -/
def pushedP (p : Byte) (b : Bool) : Byte :=
  bitByte (flagOf p .n) <<< 7 ||| bitByte (flagOf p .v) <<< 6 ||| 1#8 <<< 5 ||| bitByte b <<< 4 |||
    bitByte (flagOf p .d) <<< 3 ||| bitByte (flagOf p .i) <<< 2 ||| bitByte (flagOf p .z) <<< 1 ||| bitByte (flagOf p .c)

/-- A byte written to P: bit 4 becomes 0 and bit 5 becomes 1 (10_state.md R57). -/
def normP (v : Byte) : Byte := (v &&& 0xCF#8) ||| 0x20#8

/-- `SetNZ(r)` (41_alu.md R177). -/
def State.setNZ (s : State) (r : Byte) : State := (s.setFlag .n (r.getLsbD 7)).setFlag .z (r == 0#8)

/-! ## The ALU -/

/-- A result and its candidate flags (41_alu.md R176). -/
structure AluResult where
  r : Byte
  n : Bool
  v : Bool
  z : Bool
  c : Bool
deriving DecidableEq, Repr

/-- ADD in binary mode (41_alu.md R178). -/
def aluAdd (a b : Byte) (cin : Bool) : AluResult :=
  let t := a.toNat + b.toNat + cin.toNat
  let r := BitVec.ofNat 8 t
  { r := r
    n := r.getLsbD 7
    v := (~~~(a ^^^ b) &&& (a ^^^ r) &&& 0x80#8) != 0#8
    z := r == 0#8
    c := decide (t > 0xFF) }

/-- SUB in binary mode (41_alu.md R179): C is borrow-not. -/
def aluSub (a b : Byte) (cin : Bool) : AluResult := aluAdd a (~~~b) cin

/-- The low nibble of a byte. -/
def loNibble (v : Byte) : Nat := (v &&& 0x0F#8).toNat

/-- The high nibble of a byte. -/
def hiNibble (v : Byte) : Nat := (v >>> 4).toNat

/-- `lo` of decimal ADD, after its correction (41_alu.md R180). -/
def decimalAddLo (a b : Byte) (cin : Bool) : Nat :=
  let lo := loNibble a + loNibble b + cin.toNat
  if lo > 9 then lo + 6 else lo

/-- `hc`, the carry into the high nibble, 0 or 1 (41_alu.md R180). -/
def decimalAddHc (a b : Byte) (cin : Bool) : Nat := if decimalAddLo a b cin > 0x0F then 1 else 0

/-- ADD in decimal mode: the result and the decimal carry (41_alu.md R180), on every input (R184). -/
def decimalAdd (a b : Byte) (cin : Bool) : Byte × Bool :=
  let lo := decimalAddLo a b cin
  let hi := hiNibble a + hiNibble b + decimalAddHc a b cin
  let hi' := if hi > 9 then hi + 6 else hi
  (BitVec.ofNat 8 (hi' % 16 * 16 + lo % 16), decide (hi > 9))

/-- SUB in decimal mode (41_alu.md R181), on every input (R184). -/
def decimalSub (a b : Byte) (cin : Bool) : Byte :=
  let lo : Int := (loNibble a : Int) - loNibble b - (1 - cin.toNat)
  let hi : Int := (hiNibble a : Int) - hiNibble b
  let hi := if lo < 0 then hi - 1 else hi
  let lo := if lo < 0 then lo - 6 else lo
  let hi := if hi < 0 then hi - 6 else hi
  BitVec.ofNat 8 ((hi % 16).toNat * 16 + (lo % 16).toNat)

/-- `S`, the sum after the low-nibble correction and before the high-nibble one, as a signed integer (41_alu.md R182). -/
def nmosIntermediate (a b : Byte) (cin : Bool) : Int :=
  (a &&& 0xF0#8).toInt + (b &&& 0xF0#8).toInt + (decimalAddLo a b cin % 16 + 0x10 * decimalAddHc a b cin : Nat)

/-- N of decimal ADC (41_alu.md R182). -/
def decimalAddN (nv : DecimalNV) (a b : Byte) (cin : Bool) : Bool :=
  match nv with
  | .binary => (aluAdd a b cin).n
  | .nmosIntermediate => (BitVec.ofInt 8 (nmosIntermediate a b cin)).getLsbD 7

/-- V of decimal ADC (41_alu.md R182). -/
def decimalAddV (nv : DecimalNV) (a b : Byte) (cin : Bool) : Bool :=
  match nv with
  | .binary => (aluAdd a b cin).v
  | .nmosIntermediate => decide (nmosIntermediate a b cin < -128 ∨ nmosIntermediate a b cin > 127)

/-- ADC (44_arithmetic.md R226): binary when D = 0, else the decimal result and the flags of 41_alu.md R182. -/
def aluAdc (nv : DecimalNV) (d : Bool) (a b : Byte) (cin : Bool) : AluResult :=
  if d then
    { r := (decimalAdd a b cin).1
      n := decimalAddN nv a b cin
      v := decimalAddV nv a b cin
      z := (aluAdd a b cin).z
      c := (decimalAdd a b cin).2 }
  else aluAdd a b cin

/-- SBC (44_arithmetic.md R227): when D = 1 the result is decimal and every flag is the binary one (41_alu.md R182). -/
def aluSbc (d : Bool) (a b : Byte) (cin : Bool) : AluResult :=
  if d then { aluSub a b cin with r := decimalSub a b cin } else aluSub a b cin

/-- CMP (41_alu.md R185). It gives no V: `v` is false and no instruction writes it. -/
def aluCmp (a b : Byte) : AluResult :=
  let r := a - b
  { r := r, n := r.getLsbD 7, v := false, z := a == b, c := decide (a.toNat ≥ b.toNat) }

/-- ASL: the result and the bit shifted out (41_alu.md R187). -/
def aluAsl (v : Byte) : Byte × Bool := (v <<< 1, v.getLsbD 7)

/-- LSR (41_alu.md R187). -/
def aluLsr (v : Byte) : Byte × Bool := (v >>> 1, v.getLsbD 0)

/-- ROL through the carry (41_alu.md R187). -/
def aluRol (cin : Bool) (v : Byte) : Byte × Bool := (v <<< 1 ||| bitByte cin, v.getLsbD 7)

/-- ROR through the carry (41_alu.md R187). -/
def aluRor (cin : Bool) (v : Byte) : Byte × Bool := (v >>> 1 ||| bitByte cin <<< 7, v.getLsbD 0)

/-- INC (41_alu.md R189). -/
def aluInc (v : Byte) : Byte := v + 1#8

/-- DEC (41_alu.md R189). -/
def aluDec (v : Byte) : Byte := v - 1#8

/-- Write N, V, Z and C from an ALU result (ADC and SBC: 44_arithmetic.md R226, R227). -/
def State.setNVZC (s : State) (f : AluResult) : State :=
  (((s.setFlag .n f.n).setFlag .v f.v).setFlag .z f.z).setFlag .c f.c

/-- Write N, Z and C from an ALU result (the compares: 44_arithmetic.md R228). -/
def State.setNZC (s : State) (f : AluResult) : State :=
  ((s.setFlag .n f.n).setFlag .z f.z).setFlag .c f.c

end Sys2Proof.Machine
end

