-- ==== Sys2Proof/Machine/Ops.lean ====
section
/-!
DEFINITION. The named operations over memory, bus, registers and stack (spec/20_memory.md), the shared interrupt entry
(spec/60_exceptions.md R303) and the return from it (spec/46_control.md R268).
-/

namespace Sys2Proof.Machine

/-! ## Plain memory -/

/-- The byte at an address. An unlisted address reads 0x00 (DESIGN CHOICE, log 5). -/
def Memory.peek : Memory → Nat → Byte
  | [], _ => 0x00#8
  | (k, b) :: t, a => if k = a then b else Memory.peek t a

/-- The memory with `v` at address `a`, in canonical form: 0x00, what an unlisted address reads, is never listed. -/
def Memory.put : Memory → Nat → Byte → Memory
  | [], a, v => if v = 0x00#8 then [] else [(a, v)]
  | (k, b) :: t, a, v =>
    if a < k then (if v = 0x00#8 then (k, b) :: t else (a, v) :: (k, b) :: t)
    else if a = k then (if v = 0x00#8 then t else (a, v) :: t)
    else (k, b) :: Memory.put t a v

/-- Canonical from address `from_` on: addresses strictly rising and inside the 65,536 of 20_memory.md R81, and no byte
equal to what an unlisted address reads. -/
def Memory.wfFrom : Nat → Memory → Bool
  | _, [] => true
  | lo, (k, b) :: t => decide (lo ≤ k) && decide (k < 65536) && (b != 0x00#8) && Memory.wfFrom (k + 1) t

/-- The canonical form of memory. -/
def Memory.wf (m : Memory) : Bool := Memory.wfFrom 0 m

/-! ## The bus -/

def Region.holds (r : Region) (a : Nat) : Bool := decide (r.base ≤ a) && decide (a < r.base + r.size)

/-- Whether the host has declared the address plain memory (20_memory.md R101). -/
def State.plain (s : State) (a : Word) : Bool := !(s.oracle.any (fun r => r.holds a.toNat))

/-- Add one access to the tick's accesses (20_memory.md R90, R95). -/
def State.logBus (s : State) (e : BusAccess) : State := { s with bus := s.bus ++ [e] }

/-- The next free value, and the state that has used it (00_scope.md R12; log 1). -/
def State.draw (s : State) : Byte × State := (Config.freeByte s.draws, { s with draws := s.draws + 1 })

/-- `MemRead(addr, 1)` (20_memory.md R82): the byte of plain memory, or any byte where the host declared none (R101). -/
def State.memRead (s : State) (a : Word) : Byte × State :=
  if s.plain a then (s.mem.peek a.toNat, s.logBus (.read a (s.mem.peek a.toNat)))
  else ((s.draw).1, (s.draw).2.logBus (.read a (s.draw).1))

/-- `MemWrite(addr, 1, v)` (20_memory.md R83). Outside plain memory the effect is the host's: the access is made, and no
plain byte changes (log 7). -/
def State.memWrite (s : State) (a : Word) (v : Byte) : State :=
  if s.plain a then { s with mem := s.mem.put a.toNat v }.logBus (.write a v) else s.logBus (.write a v)

/-- `ReadWord(addr)`: low byte first; the second address wraps (20_memory.md R86). -/
def State.readWord (s : State) (a : Word) : Word × State :=
  let (lo, s) := s.memRead a
  let (hi, s) := s.memRead (a + 1#16)
  (wordOf lo hi, s)

/-- `ReadWordZP(p)`: both bytes in page 0 (20_memory.md R87). -/
def State.readWordZP (s : State) (p : Byte) : Word × State :=
  let (lo, s) := s.memRead (zext16 p)
  let (hi, s) := s.memRead (zext16 (p + 1#8))
  (wordOf lo hi, s)

/-- `FetchByte()` (30_encoding.md R113). -/
def State.fetchByte (s : State) : Byte × State :=
  let (v, s) := s.memRead s.pc
  (v, { s with pc := s.pc + 1#16 })

/-! ## The stack -/

/-- `0x0100 | SP` (10_state.md R44). -/
def stackAddr (sp : Byte) : Word := 0x0100#16 ||| zext16 sp

/-- `Push(v)`: write, then decrement (20_memory.md R92). -/
def State.push (s : State) (v : Byte) : State :=
  { s.memWrite (stackAddr s.sp) v with sp := s.sp - 1#8 }

/-- `Pull()`: increment, then read (20_memory.md R93). -/
def State.pull (s : State) : Byte × State :=
  { s with sp := s.sp + 1#8 }.memRead (stackAddr (s.sp + 1#8))

/-! ## Taking an exception, and returning from one -/

/-- `InterruptEntry(b, vector)`, which NMI, IRQ and BRK share (60_exceptions.md R303): PC and P are saved on the stack,
I becomes 1, PC comes from the vector. D and the other registers do not change. -/
def State.interruptEntry (s : State) (b : Bool) (vector : Word) : State :=
  let s := s.push (hi8 s.pc)
  let s := s.push (lo8 s.pc)
  let s := s.push (pushedP s.p b)
  let s := s.setFlag .i true
  let (target, s) := s.readWord vector
  { s with pc := target }

/-- Pull P (10_state.md R57: PLP and RTI). -/
def State.pullP (s : State) : State :=
  let (v, s) := s.pull
  { s with p := normP v }

/-- The return from an interrupt (46_control.md R268, 60_exceptions.md R312): P, PCL, PCH, with no +1. -/
def State.returnFromInterrupt (s : State) : State :=
  let s := s.pullP
  let (lo, s) := s.pull
  let (hi, s) := s.pull
  { s with pc := wordOf lo hi }

/-! ## The tick's result -/

/-- End an instruction: the cycles it took, `recognized = true` (30_encoding.md R121, R123). -/
def State.finish (s : State) (cycles : Nat) : State :=
  { s with result := { s.result with cyclesConsumed := cycles, recognized := true } }

end Sys2Proof.Machine
end

