-- ==== Sys2Proof/Machine/Operands.lean ====
section
/-!
DEFINITION. The 6502_address_decoder (spec/40_addressing.md): every addressing mode's effective address and page-cross
flag, and the operand access primitives. The operand bytes were fetched before (R152); the pointer reads of the indirect
modes are made here. R151's operand kinds are the types: `Value` is `Src.imm`, `Acc` is `Rmw.acc`, `Addr` is the address
`Mem.resolve` or `JmpOperand.resolve` gives, `Offset` is `branchTarget`, `None` is no field.
-/

namespace Sys2Proof.Machine

/-- `crossed` (40_addressing.md R164). -/
def pageCross (base ea : Word) : Bool := (base &&& 0xFF00#16) != (ea &&& 0xFF00#16)

end Sys2Proof.Machine

namespace Sys2Proof

open Machine

/-- The effective address, `crossed`, and the state after the pointer reads (40_addressing.md R155 to R160, R162, R163).
No access to the effective address itself is made (R152). -/
def Mem.resolve (m : Mem) (s : State) : Word × Bool × State :=
  match m with
  | .zp b => (zext16 b, false, s)
  | .zpx b => (zext16 (b + s.x), false, s)
  | .zpy b => (zext16 (b + s.y), false, s)
  | .abs w => (w, false, s)
  | .absx w => (w + zext16 s.x, pageCross w (w + zext16 s.x), s)
  | .absy w => (w + zext16 s.y, pageCross w (w + zext16 s.y), s)
  | .indx b =>
    let (ptr, s') := s.readWordZP (b + s.x)
    (ptr, false, s')
  | .indy b =>
    let (ptr, s') := s.readWordZP b
    (ptr + zext16 s.y, pageCross ptr (ptr + zext16 s.y), s')

/-- The address after `ptr` inside `ptr`'s page: JMP's page-wrap bug (40_addressing.md R161). -/
def jmpHighAddr (ptr : Word) : Word := (ptr &&& 0xFF00#16) ||| ((ptr + 1#16) &&& 0x00FF#16)

/-- The target of JMP (46_control.md R265; Indirect: 40_addressing.md R161, low byte read first). -/
def JmpOperand.resolve (t : JmpOperand) (s : State) : Word × State :=
  match t with
  | .abs w => (w, s)
  | .ind ptr =>
    let (lo, s) := s.memRead ptr
    let (hi, s) := s.memRead (jmpHighAddr ptr)
    (wordOf lo hi, s)

/-- `Load(operand)` (40_addressing.md R168): the byte, `crossed`, and the state after the reads. -/
def Src.load (m : Src) (s : State) : Byte × Bool × State :=
  match m with
  | .imm v => (v, false, s)
  | .mem m =>
    let (ea, crossed, s) := m.resolve s
    let (v, s) := s.memRead ea
    (v, crossed, s)

/-- `Load` of a memory operand (40_addressing.md R168). -/
def Mem.load (m : Mem) (s : State) : Byte × Bool × State := Src.load (.mem m) s

/-- `Store(Addr(ea), v)` (40_addressing.md R169): one write, no read of `ea`. -/
def Mem.store (m : Mem) (s : State) (v : Byte) : State :=
  let (ea, _, s) := m.resolve s
  s.memWrite ea v

/-- Read-modify-write on memory (40_addressing.md R170): one read, one write. It gives the operand and the state after. -/
def RmwMem.modify (m : RmwMem) (s : State) (f : Byte → Byte) : Byte × State :=
  let (ea, _, s) := m.toMem.resolve s
  let (v, s) := s.memRead ea
  (v, s.memWrite ea (f v))

/-- Read-modify-write on A (40_addressing.md R171) or on memory (R170). -/
def Rmw.modify (m : Rmw) (s : State) (f : Byte → Byte) : Byte × State :=
  match m with
  | .acc => (s.a, { s with a := f s.a })
  | .mem m => m.modify s f

/-- The branch target (40_addressing.md R165): PC is already the address after the branch. -/
def branchTarget (pc : Word) (o : Byte) : Word := pc + sext16 o

end Sys2Proof
end

