-- ==== Sys2Proof/Machine/Cycles.lean ====
section
/-!
DEFINITION. The cycles an instruction reports (spec/30_encoding.md R115, R122; spec/70_reset_and_hazards.md R346). The numbers
are the spec's, which it marks as general knowledge (D14; log 18). No other rule depends on them (R345).
-/

namespace Sys2Proof

/-- Base cycles of the memory modes of a reading instruction (R346). -/
def Mem.readBase : Mem → Nat
  | .zp _ => 3
  | .zpx _ => 4
  | .zpy _ => 4
  | .abs _ => 4
  | .absx _ => 4
  | .absy _ => 4
  | .indx _ => 6
  | .indy _ => 5

/-- Base cycles of a reading instruction (R346). -/
def Src.readBase : Src → Nat
  | .imm _ => 2
  | .mem m => m.readBase

/-- Base cycles of a store (R346). -/
def Mem.storeBase : Mem → Nat
  | .zp _ => 3
  | .zpx _ => 4
  | .zpy _ => 4
  | .abs _ => 4
  | .absx _ => 5
  | .absy _ => 5
  | .indx _ => 6
  | .indy _ => 6

/-- Base cycles of a read-modify-write on memory (R346). -/
def RmwMem.rmwBase : RmwMem → Nat
  | .zp _ => 5
  | .zpx _ => 6
  | .abs _ => 6
  | .absx _ => 7

/-- Base cycles of a shift or rotate (R346). -/
def Rmw.rmwBase : Rmw → Nat
  | .acc => 2
  | .mem m => m.rmwBase

/-- The "+1 on page cross" flag of the read forms (R115). -/
def Mode.readPageCross : Mode → Bool
  | .absx => true
  | .absy => true
  | .indy => true
  | _ => false

/-- `e.base` of an instruction (R346). -/
def Instr.baseCycles : Instr → Nat
  | .lda m => m.readBase
  | .ldx m => m.readBase
  | .ldy m => m.readBase
  | .sta m => m.storeBase
  | .stx m => m.storeBase
  | .sty m => m.storeBase
  | .tax => 2
  | .tay => 2
  | .txa => 2
  | .tya => 2
  | .tsx => 2
  | .txs => 2
  | .pha => 3
  | .php => 3
  | .pla => 4
  | .plp => 4
  | .adc m => m.readBase
  | .sbc m => m.readBase
  | .cmp m => m.readBase
  | .cpx m => m.readBase
  | .cpy m => m.readBase
  | .inc m => m.rmwBase
  | .dec m => m.rmwBase
  | .inx => 2
  | .iny => 2
  | .dex => 2
  | .dey => 2
  | .and m => m.readBase
  | .ora m => m.readBase
  | .eor m => m.readBase
  | .bit m => m.readBase
  | .asl m => m.rmwBase
  | .lsr m => m.rmwBase
  | .rol m => m.rmwBase
  | .ror m => m.rmwBase
  | .bcc _ => 2
  | .bcs _ => 2
  | .beq _ => 2
  | .bne _ => 2
  | .bmi _ => 2
  | .bpl _ => 2
  | .bvc _ => 2
  | .bvs _ => 2
  | .jmp (.abs _) => 3
  | .jmp (.ind _) => 5
  | .jsr _ => 6
  | .rts => 6
  | .rti => 6
  | .brk _ => 7
  | .clc => 2
  | .sec => 2
  | .cli => 2
  | .sei => 2
  | .cld => 2
  | .sed => 2
  | .clv => 2
  | .nop => 2
  | .nopImp _ => 2
  | .nopImm _ _ => 2
  | .nopZp _ _ => 3
  | .nopZpx _ _ => 4
  | .nopAbs _ _ => 4
  | .nopAbsx _ _ => 4
  | .unrecognized _ => 2

/-- `e.page_cross_flag` of an instruction (R115): the reading instructions and the illegal NOP Absolute,X. -/
def Instr.pageCrossFlag : Instr → Bool
  | .lda m => m.mode.readPageCross
  | .ldx m => m.mode.readPageCross
  | .ldy m => m.mode.readPageCross
  | .adc m => m.mode.readPageCross
  | .sbc m => m.mode.readPageCross
  | .cmp m => m.mode.readPageCross
  | .cpx m => m.mode.readPageCross
  | .cpy m => m.mode.readPageCross
  | .and m => m.mode.readPageCross
  | .ora m => m.mode.readPageCross
  | .eor m => m.mode.readPageCross
  | .bit m => m.mode.readPageCross
  | .nopAbsx _ _ => true
  | _ => false

/-- `Cycles(e, crossed, br)` (R122). -/
def Instr.cycles (i : Instr) (crossed : Bool) (branchExtra : Nat) : Nat :=
  i.baseCycles + (i.pageCrossFlag && crossed).toNat + branchExtra

/-- The cycles of an interrupt sequence (60_exceptions.md R308). -/
def sequenceCycles : Nat := 7

end Sys2Proof
end

