-- ==== Sys2Proof/Machine/LoadStore.lean ====
section
/-!
DEFINITION. The meanings of LDA, LDX, LDY, STA, STX, STY (spec/42_load_store.md R201 to R206). A meaning runs in the state
after the fetch: PC is past the fetched bytes (spec/10_state.md R46).
-/

namespace Sys2Proof.Machine

/-- What every instruction answers. -/
abbrev Answer := Host.Outcome State Fault Refusal

/-- LDA (R201): `M <- Load(operand); A <- M; SetNZ(A)`. -/
def execLda (m : Src) (s : State) : Answer :=
  let (v, crossed, s) := m.load s
  .next (({ s with a := v }.setNZ v).finish ((Instr.lda m).cycles crossed 0))

/-- LDX (R202). -/
def execLdx (m : Src) (s : State) : Answer :=
  let (v, crossed, s) := m.load s
  .next (({ s with x := v }.setNZ v).finish ((Instr.ldx m).cycles crossed 0))

/-- LDY (R203). -/
def execLdy (m : Src) (s : State) : Answer :=
  let (v, crossed, s) := m.load s
  .next (({ s with y := v }.setNZ v).finish ((Instr.ldy m).cycles crossed 0))

/-- STA (R204): one write, no read of `ea`, no flag. -/
def execSta (m : Mem) (s : State) : Answer :=
  .next ((m.store s s.a).finish ((Instr.sta m).cycles false 0))

/-- STX (R205). -/
def execStx (m : Mem) (s : State) : Answer :=
  .next ((m.store s s.x).finish ((Instr.stx m).cycles false 0))

/-- STY (R206). -/
def execSty (m : Mem) (s : State) : Answer :=
  .next ((m.store s s.y).finish ((Instr.sty m).cycles false 0))

end Sys2Proof.Machine
end

