-- ==== Sys2Proof/Machine/Arithmetic.lean ====
section
/-!
DEFINITION. The meanings of ADC, SBC, the compares, INC, DEC, INX, INY, DEX, DEY (spec/44_arithmetic.md R226 to R236).
-/

namespace Sys2Proof.Machine

/-- ADC (R226): binary or decimal by D, then `A <- r` and N, V, Z, C. -/
def execAdc (m : Src) (s : State) : Answer :=
  let (v, crossed, s) := m.load s
  let f := aluAdc s.params.decimalNV (s.flag .d) s.a v (s.flag .c)
  .next (({ s with a := f.r }.setNVZC f).finish ((Instr.adc m).cycles crossed 0))

/-- SBC (R227). -/
def execSbc (m : Src) (s : State) : Answer :=
  let (v, crossed, s) := m.load s
  let f := aluSbc (s.flag .d) s.a v (s.flag .c)
  .next (({ s with a := f.r }.setNVZC f).finish ((Instr.sbc m).cycles crossed 0))

/-- A compare of a register's value: N, Z, C and nothing else (R228 to R230). -/
def compare (i : Instr) (reg : Byte) (m : Src) (s : State) : Answer :=
  let (v, crossed, s) := m.load s
  .next ((s.setNZC (aluCmp reg v)).finish (i.cycles crossed 0))

/-- CMP (R228). -/
def execCmp (m : Src) (s : State) : Answer := compare (.cmp m) s.a m s

/-- CPX (R229). -/
def execCpx (m : Src) (s : State) : Answer := compare (.cpx m) s.x m s

/-- CPY (R230). -/
def execCpy (m : Src) (s : State) : Answer := compare (.cpy m) s.y m s

/-- INC (R231): read-modify-write, then `SetNZ(r)`. -/
def execInc (m : RmwMem) (s : State) : Answer :=
  let (v, s) := m.modify s aluInc
  .next ((s.setNZ (aluInc v)).finish ((Instr.inc m).cycles false 0))

/-- DEC (R232). -/
def execDec (m : RmwMem) (s : State) : Answer :=
  let (v, s) := m.modify s aluDec
  .next ((s.setNZ (aluDec v)).finish ((Instr.dec m).cycles false 0))

/-- INX (R233). -/
def execInx (s : State) : Answer :=
  .next (({ s with x := aluInc s.x }.setNZ (aluInc s.x)).finish (Instr.inx.cycles false 0))

/-- INY (R234). -/
def execIny (s : State) : Answer :=
  .next (({ s with y := aluInc s.y }.setNZ (aluInc s.y)).finish (Instr.iny.cycles false 0))

/-- DEX (R235). -/
def execDex (s : State) : Answer :=
  .next (({ s with x := aluDec s.x }.setNZ (aluDec s.x)).finish (Instr.dex.cycles false 0))

/-- DEY (R236). -/
def execDey (s : State) : Answer :=
  .next (({ s with y := aluDec s.y }.setNZ (aluDec s.y)).finish (Instr.dey.cycles false 0))

end Sys2Proof.Machine
end

