-- ==== Sys2Proof/Machine/Control.lean ====
section
/-!
DEFINITION. The meanings of the branches, JMP, JSR, RTS, RTI and BRK (spec/46_control.md R256 to R269).
-/

namespace Sys2Proof.Machine

/-- The common branch rule (R256). PC is the address after the branch; only PC is written. -/
def branch (i : Instr) (cond : Bool) (o : Byte) (s : State) : Answer :=
  let t := branchTarget s.pc o
  if cond then .next ({ s with pc := t }.finish (i.cycles false (1 + (pageCross s.pc t).toNat)))
  else .next (s.finish (i.cycles false 0))

/-- BCC (R257). -/
def execBcc (o : Byte) (s : State) : Answer := branch (.bcc o) (!s.flag .c) o s

/-- BCS (R258). -/
def execBcs (o : Byte) (s : State) : Answer := branch (.bcs o) (s.flag .c) o s

/-- BEQ (R259). -/
def execBeq (o : Byte) (s : State) : Answer := branch (.beq o) (s.flag .z) o s

/-- BNE (R260). -/
def execBne (o : Byte) (s : State) : Answer := branch (.bne o) (!s.flag .z) o s

/-- BMI (R261). -/
def execBmi (o : Byte) (s : State) : Answer := branch (.bmi o) (s.flag .n) o s

/-- BPL (R262). -/
def execBpl (o : Byte) (s : State) : Answer := branch (.bpl o) (!s.flag .n) o s

/-- BVC (R263). -/
def execBvc (o : Byte) (s : State) : Answer := branch (.bvc o) (!s.flag .v) o s

/-- BVS (R264). -/
def execBvs (o : Byte) (s : State) : Answer := branch (.bvs o) (s.flag .v) o s

/-- JMP (R265). -/
def execJmp (t : JmpOperand) (s : State) : Answer :=
  let (target, s) := t.resolve s
  .next ({ s with pc := target }.finish ((Instr.jmp t).cycles false 0))

/-- JSR (R266). PC is the address of the last byte of the JSR: it is pushed, and only then is that byte read, so that the
high byte of the target is what memory holds after the pushes (not what `target` was decoded with; log 11). -/
def execJsr (target : Word) (s : State) : Answer :=
  let s := s.push (hi8 s.pc)
  let s := s.push (lo8 s.pc)
  let (hh, s) := s.memRead s.pc
  .next ({ s with pc := wordOf (lo8 target) hh }.finish ((Instr.jsr target).cycles false 0))

/-- RTS (R267): pull low, pull high, and one more. -/
def execRts (s : State) : Answer :=
  let (lo, s) := s.pull
  let (hi, s) := s.pull
  .next ({ s with pc := wordOf lo hi + 1#16 }.finish (Instr.rts.cycles false 0))

/-- RTI (R268). -/
def execRti (s : State) : Answer := .next (s.returnFromInterrupt.finish (Instr.rti.cycles false 0))

/-- BRK (R269): PC skips the signature byte, which is not read (log 11), and the shared entry runs with B = 1. -/
def execBrk (signature : Byte) (s : State) : Answer :=
  .next (({ s with pc := s.pc + 1#16 }.interruptEntry true 0xFFFE#16).finish ((Instr.brk signature).cycles false 0))

end Sys2Proof.Machine
end

