-- ==== Sys2Proof/Machine/FlagsNop.lean ====
section
/-!
DEFINITION. The meanings of the flag instructions, NOP, the illegal NOPs and the unrecognized opcodes
(spec/47_flags_nop.md R276 to R290).
-/

namespace Sys2Proof.Machine

/-- CLC (R276). -/
def execClc (s : State) : Answer := .next ((s.setFlag .c false).finish (Instr.clc.cycles false 0))

/-- SEC (R277). -/
def execSec (s : State) : Answer := .next ((s.setFlag .c true).finish (Instr.sec.cycles false 0))

/-- CLI (R278). -/
def execCli (s : State) : Answer := .next ((s.setFlag .i false).finish (Instr.cli.cycles false 0))

/-- SEI (R279). -/
def execSei (s : State) : Answer := .next ((s.setFlag .i true).finish (Instr.sei.cycles false 0))

/-- CLD (R280). -/
def execCld (s : State) : Answer := .next ((s.setFlag .d false).finish (Instr.cld.cycles false 0))

/-- SED (R281). -/
def execSed (s : State) : Answer := .next ((s.setFlag .d true).finish (Instr.sed.cycles false 0))

/-- CLV (R282). -/
def execClv (s : State) : Answer := .next ((s.setFlag .v false).finish (Instr.clv.cycles false 0))

/-- NOP (R283): nothing; PC advanced in the fetch. -/
def execNop (s : State) : Answer := .next (s.finish (Instr.nop.cycles false 0))

/-- Illegal NOP, Implicit (R284). -/
def execNopImp (op : Byte) (s : State) : Answer := .next (s.finish ((Instr.nopImp op).cycles false 0))

/-- Illegal NOP, Immediate (R285): the value is discarded. -/
def execNopImm (op v : Byte) (s : State) : Answer := .next (s.finish ((Instr.nopImm op v).cycles false 0))

/-- Illegal NOP, Zero page (R286): the address is discarded and not read. -/
def execNopZp (op b : Byte) (s : State) : Answer := .next (s.finish ((Instr.nopZp op b).cycles false 0))

/-- Illegal NOP, Zero page,X (R287). -/
def execNopZpx (op b : Byte) (s : State) : Answer := .next (s.finish ((Instr.nopZpx op b).cycles false 0))

/-- Illegal NOP, Absolute (R288). -/
def execNopAbs (op : Byte) (w : Word) (s : State) : Answer := .next (s.finish ((Instr.nopAbs op w).cycles false 0))

/-- Illegal NOP, Absolute,X (R289): the address is discarded, `crossed` is kept for the cycle count. -/
def execNopAbsx (op : Byte) (w : Word) (s : State) : Answer :=
  let (_, crossed, s) := (Mem.absx w).resolve s
  .next (s.finish ((Instr.nopAbsx op w).cycles crossed 0))

/-- An unrecognized opcode (R290): no register but PC changes, `recognized = false`. -/
def execUnrecognized (op : Byte) (s : State) : Answer :=
  let s := if s.params.unrecognizedAdvance then s else { s with pc := s.pc - 1#16 }
  .next { s with result := ⟨(Instr.unrecognized op).cycles false 0, op, false⟩ }

end Sys2Proof.Machine
end

