-- ==== Sys2Proof/Machine/LogicShift.lean ====
section
/-!
DEFINITION. The meanings of AND, ORA, EOR, BIT and the shifts and rotates (spec/45_logic_shift.md R241 to R248).
-/

namespace Sys2Proof.Machine

/-- AND (R241). -/
def execAnd (m : Src) (s : State) : Answer :=
  let (v, crossed, s) := m.load s
  .next (({ s with a := s.a &&& v }.setNZ (s.a &&& v)).finish ((Instr.and m).cycles crossed 0))

/-- ORA (R242). -/
def execOra (m : Src) (s : State) : Answer :=
  let (v, crossed, s) := m.load s
  .next (({ s with a := s.a ||| v }.setNZ (s.a ||| v)).finish ((Instr.ora m).cycles crossed 0))

/-- EOR (R243). -/
def execEor (m : Src) (s : State) : Answer :=
  let (v, crossed, s) := m.load s
  .next (({ s with a := s.a ^^^ v }.setNZ (s.a ^^^ v)).finish ((Instr.eor m).cycles crossed 0))

/-- BIT (R244, 41_alu.md R190): Z from `A & M`, N and V from M alone. -/
def execBit (m : Mem) (s : State) : Answer :=
  let (v, crossed, s) := m.load s
  let s := ((s.setFlag .z ((s.a &&& v) == 0#8)).setFlag .n (v.getLsbD 7)).setFlag .v (v.getLsbD 6)
  .next (s.finish ((Instr.bit m).cycles crossed 0))

/-- A shift or rotate `f`, which gives the result and the bit shifted out (41_alu.md R187): C takes that bit, N and Z
come from the result. -/
def shift (i : Instr) (m : Rmw) (f : Byte → Byte × Bool) (s : State) : Answer :=
  let (v, s) := m.modify s (fun v => (f v).1)
  .next (((s.setFlag .c (f v).2).setNZ (f v).1).finish (i.cycles false 0))

/-- ASL (R245). -/
def execAsl (m : Rmw) (s : State) : Answer := shift (.asl m) m aluAsl s

/-- LSR (R246). -/
def execLsr (m : Rmw) (s : State) : Answer := shift (.lsr m) m aluLsr s

/-- ROL (R247): through the old carry. -/
def execRol (m : Rmw) (s : State) : Answer := shift (.rol m) m (aluRol (s.flag .c)) s

/-- ROR (R248): through the old carry. -/
def execRor (m : Rmw) (s : State) : Answer := shift (.ror m) m (aluRor (s.flag .c)) s

end Sys2Proof.Machine
end

