-- ==== Sys2Proof/Machine/TransferStack.lean ====
section
/-!
DEFINITION. The meanings of the register transfers and the stack operations (spec/43_transfer_stack.md R211 to R220).
-/

namespace Sys2Proof.Machine

/-- TAX (R211): `X <- A; SetNZ(X)`. -/
def execTax (s : State) : Answer := .next (({ s with x := s.a }.setNZ s.a).finish (Instr.tax.cycles false 0))

/-- TAY (R212). -/
def execTay (s : State) : Answer := .next (({ s with y := s.a }.setNZ s.a).finish (Instr.tay.cycles false 0))

/-- TXA (R213). -/
def execTxa (s : State) : Answer := .next (({ s with a := s.x }.setNZ s.x).finish (Instr.txa.cycles false 0))

/-- TYA (R214). -/
def execTya (s : State) : Answer := .next (({ s with a := s.y }.setNZ s.y).finish (Instr.tya.cycles false 0))

/-- TSX (R215). -/
def execTsx (s : State) : Answer := .next (({ s with x := s.sp }.setNZ s.sp).finish (Instr.tsx.cycles false 0))

/-- TXS (R216): no flag changes (90_conflicts.md C2). -/
def execTxs (s : State) : Answer := .next ({ s with sp := s.x }.finish (Instr.txs.cycles false 0))

/-- PHA (R217): `Push(A)`. -/
def execPha (s : State) : Answer := .next ((s.push s.a).finish (Instr.pha.cycles false 0))

/-- PHP (R218): `Push(PushedP(1))`. -/
def execPhp (s : State) : Answer := .next ((s.push (pushedP s.p true)).finish (Instr.php.cycles false 0))

/-- PLA (R219): `A <- Pull(); SetNZ(A)`. -/
def execPla (s : State) : Answer :=
  let (v, s) := s.pull
  .next (({ s with a := v }.setNZ v).finish (Instr.pla.cycles false 0))

/-- PLP (R220): `v <- Pull(); P <- (v & 0xCF) | 0x20`. -/
def execPlp (s : State) : Answer := .next (s.pullP.finish (Instr.plp.cycles false 0))

end Sys2Proof.Machine
end

