-- ==== Sys2Proof/Machine/Fetch.lean ====
section
/-!
DEFINITION. Fetching and decoding the instruction at PC (spec/30_encoding.md R113, R121; spec/20_memory.md R84): one bus read for
each byte that is fetched before the operation executes, and no other access.
-/

namespace Sys2Proof.Machine

/-- The next byte of the instruction: fetched, or, where the instruction fetches none there, the byte memory holds, with no
bus access. Such a byte is JSR's last or BRK's signature, and no meaning uses it (log 11). -/
def State.operandByte (s : State) (fetched : Bool) : Byte × State :=
  if fetched then s.fetchByte else (s.mem.peek s.pc.toNat, s)

/-- The instruction at PC, and the state after its fetch: PC past the fetched bytes, `opcode_observed` the opcode byte
(30_encoding.md R121, R123). -/
def State.fetchInstr (s : State) : Instr × State :=
  let (op, s) := s.fetchByte
  let s := { s with result := { s.result with opcodeObserved := op } }
  let n := (decodeOp op 0#8 0#8).fetches
  let (b1, s) := s.operandByte (decide (1 ≤ n))
  let (b2, s) := s.operandByte (decide (2 ≤ n))
  (decodeOp op b1 b2, s)

/-- The tick begins: it has made no bus access yet (log 14). -/
def State.beginTick (s : State) : State := { s with bus := [] }

/-- Plain memory at one address: the regions without it. -/
def Region.without (a : Nat) (r : Region) : List Region :=
  if r.holds a then
    [⟨r.base, a - r.base⟩, ⟨a + 1, r.base + r.size - (a + 1)⟩].filter (fun r => r.size != 0)
  else [r]

/-- The host declares one address plain memory and stores a byte there. -/
def State.placeByte (s : State) (a : Word) (v : Byte) : State :=
  { s with oracle := s.oracle.flatMap (Region.without a.toNat), mem := s.mem.put a.toNat v }

/-- Bytes placed at consecutive addresses (modulo 65536). -/
def State.placeBytes (s : State) (a : Word) : List Byte → State
  | [] => s
  | v :: vs => (s.placeByte a v).placeBytes (a + 1#16) vs

end Sys2Proof.Machine
end

