-- ==== Sys2Proof/Machine/Interrupt.lean ====
section
/-!
DEFINITION. The 6502_interrupt_arbiter (spec/60_exceptions.md): the poll, its priority, and the NMI, IRQ and RESET sequences.
-/

namespace Sys2Proof.Machine

/-- The polled sources (60_exceptions.md R297). -/
inductive Source where
  | reset | nmi | irq
deriving DecidableEq, Repr

/-- `Poll()` (60_exceptions.md R301): RESET over NMI over IRQ; IRQ only when I = 0 (R302). -/
def State.poll (s : State) : Option Source :=
  if s.resetPending then some .reset
  else if s.nmiPending then some .nmi
  else if s.irqPending && !s.flag .i then some .irq
  else none

/-- The result of a sequence's tick: 7 cycles (60_exceptions.md R308), a drawn `opcode_observed`, recognized
(30_encoding.md R120). -/
def State.finishSequence (s : State) : State :=
  let (op, s) := s.draw
  { s with result := ⟨sequenceCycles, op, true⟩ }

/-- The NMI sequence (60_exceptions.md R304). -/
def State.nmiSequence (s : State) : State :=
  { s.interruptEntry false 0xFFFA#16 with nmiPending := false }

/-- The IRQ sequence (60_exceptions.md R305, R309). -/
def State.irqSequence (s : State) : State :=
  let s := s.interruptEntry false 0xFFFE#16
  if s.params.irqClearOnService then { s with irqPending := false } else s

/-- SP after the RESET sequence (60_exceptions.md R306). -/
def resetSp (r : ResetSP) (sp : Byte) : Byte :=
  match r with
  | .decrement3 => sp - 3#8
  | .forceFD => 0xFD#8

/-- P after the RESET sequence: I = 1, D = 0, bit 5 = 1, bit 4 = 0, and N, V, Z, C from a drawn byte (60_exceptions.md R306,
10_state.md R65; log 21). -/
def resetP (drawn : Byte) : Byte := (drawn &&& 0xC3#8) ||| 0x24#8

/-- The RESET sequence (60_exceptions.md R306, R310): no stack access, two reads, A, X, Y, N, V, Z, C drawn. -/
def State.resetSequence (s : State) : State :=
  let s := { s with sp := resetSp s.params.resetSP s.sp }
  let (pc, s) := s.readWord 0xFFFC#16
  let (a, s) := s.draw
  let (x, s) := s.draw
  let (y, s) := s.draw
  let (flags, s) := s.draw
  { s with
    a := a, x := x, y := y, pc := pc, p := resetP flags
    resetPending := false, nmiPending := false, irqPending := false, started := true }

/-- Run the sequence of the polled source (30_encoding.md R120). -/
def State.service (s : State) (e : Source) : State :=
  match e with
  | .reset => s.resetSequence.finishSequence
  | .nmi => s.nmiSequence.finishSequence
  | .irq => s.irqSequence.finishSequence

end Sys2Proof.Machine
end

