-- ==== Sys2Proof/Machine/Step.lean ====
section
/-!
DEFINITION. One tick (spec/30_encoding.md R120): refused before any reset, else the polled sequence, else one instruction.
-/

namespace Sys2Proof.Machine

/-- `tick(bus)` (30_encoding.md R120). -/
def step (s : State) : Host.Outcome State Fault Refusal :=
  if !s.started && !s.resetPending then .refused .tickBeforeReset
  else
    match s.poll with
    | some e => .next (s.beginTick.service e)
    | none => exec s.beginTick.fetchInstr.1 s.beginTick.fetchInstr.2

/-- `s` with the instruction of an opcode-table row at PC, so that the next step runs it: its bytes in plain memory, and no
interrupt and no missing reset in the way (log 16, 17). -/
def State.withFetchWord (s : State) (nbits w : Nat) : State :=
  { s.placeBytes s.pc (tableBytes nbits w) with
    started := true, resetPending := false, nmiPending := false, irqPending := s.irqPending && s.flag .i }

end Sys2Proof.Machine
end

