-- ==== Sys2Proof/Machine/Assembler.lean ====
section
/-!
DEFINITION. The assembler form of an instruction (spec/30_encoding.md R124, R125). It is text only: no step reads it.
-/

namespace Sys2Proof.Machine

/-- One hexadecimal digit. -/
def hexDigit (n : Nat) : String := String.ofList [("0123456789ABCDEF".toList).getD n '0']

/-- Two digits after `$`. -/
def hexByte (v : Byte) : String := "$" ++ hexDigit (v.toNat / 16) ++ hexDigit (v.toNat % 16)

/-- Four digits after `$`. -/
def hexWord (w : Word) : String := hexByte (hi8 w) ++ hexDigit ((lo8 w).toNat / 16) ++ hexDigit ((lo8 w).toNat % 16)

/-- The operand of a memory mode (30_encoding.md R124). -/
def memText : Mem → String
  | .zp b => " " ++ hexByte b
  | .zpx b => " " ++ hexByte b ++ ",X"
  | .zpy b => " " ++ hexByte b ++ ",Y"
  | .abs w => " " ++ hexWord w
  | .absx w => " " ++ hexWord w ++ ",X"
  | .absy w => " " ++ hexWord w ++ ",Y"
  | .indx b => " (" ++ hexByte b ++ ",X)"
  | .indy b => " (" ++ hexByte b ++ "),Y"

def srcText : Src → String
  | .imm v => " #" ++ hexByte v
  | .mem m => memText m

def rmwText : Rmw → String
  | .acc => " A"
  | .mem m => memText m.toMem

def jmpText : JmpOperand → String
  | .abs w => " " ++ hexWord w
  | .ind w => " (" ++ hexWord w ++ ")"

/-- The target a branch at `address` names (30_encoding.md R124). -/
def branchText (address : Word) (o : Byte) : String := " " ++ hexWord (address + 2#16 + sext16 o)

/-- The offset an assembler encodes for a branch at `address` to `target`: their distance from the byte after the branch,
if it lies in -128..127 (30_encoding.md R124). -/
def branchOffset (address target : Word) : Option Byte :=
  let d := (target - (address + 2#16)).toInt
  if -128 ≤ d ∧ d ≤ 127 then some (BitVec.ofInt 8 d) else none

/-- An instruction at `address` in assembler form. An illegal NOP is `NOP*`, and an unrecognized opcode is a literal byte
(30_encoding.md R125). -/
def asmText (address : Word) : Instr → String
  | .lda m => "LDA" ++ srcText m
  | .ldx m => "LDX" ++ srcText m
  | .ldy m => "LDY" ++ srcText m
  | .sta m => "STA" ++ memText m
  | .stx m => "STX" ++ memText m
  | .sty m => "STY" ++ memText m
  | .tax => "TAX"
  | .tay => "TAY"
  | .txa => "TXA"
  | .tya => "TYA"
  | .tsx => "TSX"
  | .txs => "TXS"
  | .pha => "PHA"
  | .php => "PHP"
  | .pla => "PLA"
  | .plp => "PLP"
  | .adc m => "ADC" ++ srcText m
  | .sbc m => "SBC" ++ srcText m
  | .cmp m => "CMP" ++ srcText m
  | .cpx m => "CPX" ++ srcText m
  | .cpy m => "CPY" ++ srcText m
  | .inc m => "INC" ++ memText m.toMem
  | .dec m => "DEC" ++ memText m.toMem
  | .inx => "INX"
  | .iny => "INY"
  | .dex => "DEX"
  | .dey => "DEY"
  | .and m => "AND" ++ srcText m
  | .ora m => "ORA" ++ srcText m
  | .eor m => "EOR" ++ srcText m
  | .bit m => "BIT" ++ memText m
  | .asl m => "ASL" ++ rmwText m
  | .lsr m => "LSR" ++ rmwText m
  | .rol m => "ROL" ++ rmwText m
  | .ror m => "ROR" ++ rmwText m
  | .bcc o => "BCC" ++ branchText address o
  | .bcs o => "BCS" ++ branchText address o
  | .beq o => "BEQ" ++ branchText address o
  | .bne o => "BNE" ++ branchText address o
  | .bmi o => "BMI" ++ branchText address o
  | .bpl o => "BPL" ++ branchText address o
  | .bvc o => "BVC" ++ branchText address o
  | .bvs o => "BVS" ++ branchText address o
  | .jmp t => "JMP" ++ jmpText t
  | .jsr w => "JSR" ++ memText (.abs w)
  | .rts => "RTS"
  | .rti => "RTI"
  | .brk _ => "BRK"
  | .clc => "CLC"
  | .sec => "SEC"
  | .cli => "CLI"
  | .sei => "SEI"
  | .cld => "CLD"
  | .sed => "SED"
  | .clv => "CLV"
  | .nop => "NOP"
  | .nopImp _ => "NOP*"
  | .nopImm _ v => "NOP*" ++ srcText (.imm v)
  | .nopZp _ b => "NOP*" ++ memText (.zp b)
  | .nopZpx _ b => "NOP*" ++ memText (.zpx b)
  | .nopAbs _ w => "NOP*" ++ memText (.abs w)
  | .nopAbsx _ w => "NOP*" ++ memText (.absx w)
  | .unrecognized op => ".byte " ++ hexByte op

end Sys2Proof.Machine
end

