-- ==== Sys2Proof/Machine/HostOps.lean ====
section
/-!
DEFINITION. What the host does between ticks (spec/60_exceptions.md R298 to R300, R321, R323; spec/70_reset_and_hazards.md R331, R332,
R336): construction, the interrupt requests, the accessors, the mutator, and its own stores into its plain memory.
-/

namespace Sys2Proof.Machine

/-- `construct()` (70_reset_and_hazards.md R331): the pre-reset state of 10_state.md R65, beside the host's bus and parameters.
A, X, Y, PC and N, V, D, I, Z, C are free values (log 9). -/
def State.construct (mem : Memory) (oracle : List Region) (params : Params) (draws : Nat) : State where
  a := Config.freeByte draws
  x := Config.freeByte (draws + 1)
  y := Config.freeByte (draws + 2)
  sp := 0x00#8
  pc := wordOf (Config.freeByte (draws + 3)) (Config.freeByte (draws + 4))
  p := normP (Config.freeByte (draws + 5))
  resetPending := false
  nmiPending := false
  irqPending := false
  started := false
  mem := mem
  oracle := oracle
  params := params
  draws := draws + 6
  bus := []
  result := ⟨0, 0x00#8, true⟩

/-- `reset()` (60_exceptions.md R298). -/
def State.hostReset (s : State) : State := { s with resetPending := true }

/-- `nmi()` (60_exceptions.md R299). -/
def State.hostNmi (s : State) : State := { s with nmiPending := true }

/-- `irq_set(level)` (60_exceptions.md R300). -/
def State.hostIrqSet (s : State) (level : Bool) : State := { s with irqPending := level }

/-- What the accessors show (60_exceptions.md R321): the registers and the three latches. -/
structure Snapshot where
  a : Byte
  x : Byte
  y : Byte
  sp : Byte
  pc : Word
  p : Byte
  resetPending : Bool
  nmiPending : Bool
  irqPending : Bool
deriving DecidableEq, Repr

/-- The state accessors (60_exceptions.md R321). -/
def State.snapshot (s : State) : Snapshot :=
  ⟨s.a, s.x, s.y, s.sp, s.pc, s.p, s.resetPending, s.nmiPending, s.irqPending⟩

/-- A write of the mutator (60_exceptions.md R321). There is none of `started`. -/
inductive Mutation where
  | a (v : Byte)
  | x (v : Byte)
  | y (v : Byte)
  | sp (v : Byte)
  | pc (v : Word)
  | p (v : Byte)
  | resetPending (b : Bool)
  | nmiPending (b : Bool)
  | irqPending (b : Bool)
deriving DecidableEq, Repr

/-- The mutator (60_exceptions.md R321): P is normalised. -/
def State.mutate (s : State) (m : Mutation) : State :=
  match m with
  | .a v => { s with a := v }
  | .x v => { s with x := v }
  | .y v => { s with y := v }
  | .sp v => { s with sp := v }
  | .pc v => { s with pc := v }
  | .p v => { s with p := normP v }
  | .resetPending b => { s with resetPending := b }
  | .nmiPending b => { s with nmiPending := b }
  | .irqPending b => { s with irqPending := b }

/-- The host stores a byte in its plain memory between ticks (70_reset_and_hazards.md R336; log 10). -/
def State.poke (s : State) (a : Word) (v : Byte) : State := { s with mem := s.mem.put a.toNat v }

/-- A host operation between ticks (60_exceptions.md R323). -/
inductive HostCall where
  | reset
  | nmi
  | irqSet (level : Bool)
  | mutate (m : Mutation)
  | poke (a : Word) (v : Byte)
deriving DecidableEq, Repr

/-- One host operation. -/
def State.host (s : State) (c : HostCall) : State :=
  match c with
  | .reset => s.hostReset
  | .nmi => s.hostNmi
  | .irqSet level => s.hostIrqSet level
  | .mutate m => s.mutate m
  | .poke a v => s.poke a v

/-- What drives the block (70_reset_and_hazards.md R332): a host operation, or a tick. -/
inductive Drive where
  | call (c : HostCall)
  | tick
deriving DecidableEq, Repr

/-- A run of host operations and ticks in the order the host makes them (20_memory.md R95), up to the first refusal. -/
def runHost : List Drive → State → Host.Outcome State Fault Refusal
  | [], s => .next s
  | .call c :: ds, s => runHost ds (s.host c)
  | .tick :: ds, s =>
    match step s with
    | .next t => runHost ds t
    | .fault f => .fault f
    | .refused r => .refused r

end Sys2Proof.Machine
end

