-- ==== Sys2Proof/Safety.lean ====
section
/-!
DEFINITION. What counts as a legal state and a safe tick, and the vocabulary of the claims: what a register, a flag or a byte
of memory keeps (frames), and what an instruction writes (spec/10_state.md R50 to R64).
-/

namespace Sys2Proof.Machine

/-! ## Legal states -/

/-- The invariants of live P (10_state.md R63): bit 5 is 1 and bit 4 is 0. -/
def State.pLegal (s : State) : Prop := s.p.getLsbD 5 = true ∧ s.p.getLsbD 4 = false

/-- A legal state: live P as 10_state.md R63 says, and the memory in its canonical form (log 5). -/
def State.legal (s : State) : Prop := s.pLegal ∧ s.mem.wf = true

/-- The diagnostic a claim can exclude (47_flags_nop.md R290): the tick recognized its opcode. -/
def State.sawRecognized (s : State) : Prop := s.result.recognized = true

/-- The host keeps its duty before a tick (70_reset_and_hazards.md R334). -/
def State.tickAllowed (s : State) : Prop := s.started = true ∨ s.resetPending = true

/-! ## Frames -/

/-- The 8-bit registers (10_state.md R42 to R44). -/
inductive Reg where
  | a | x | y | sp
deriving DecidableEq, Repr

def State.reg (s : State) : Reg → Byte
  | .a => s.a
  | .x => s.x
  | .y => s.y
  | .sp => s.sp

/-- Every 8-bit register outside the list is unchanged. -/
def RegsKept (s t : State) (written : List Reg) : Prop := ∀ r, r ∉ written → t.reg r = s.reg r

/-- Every flag outside the list is unchanged, and so are bits 4 and 5 of P. -/
def FlagsKept (s t : State) (written : List Flag) : Prop :=
  (∀ f, f ∉ written → t.flag f = s.flag f) ∧ t.p.getLsbD 4 = s.p.getLsbD 4 ∧ t.p.getLsbD 5 = s.p.getLsbD 5

/-- The latches, `started`, the parameters and the host's declaration of plain memory are unchanged. -/
def RestKept (s t : State) : Prop :=
  t.resetPending = s.resetPending ∧ t.nmiPending = s.nmiPending ∧ t.irqPending = s.irqPending ∧ t.started = s.started ∧
    t.params = s.params ∧ t.oracle = s.oracle

/-- The frame of an instruction: every register, flag and latch outside what it writes. -/
def Frame (s t : State) (regs : List Reg) (flags : List Flag) : Prop :=
  RegsKept s t regs ∧ FlagsKept s t flags ∧ RestKept s t

/-- Every byte of memory is unchanged. -/
def MemKept (s t : State) : Prop := ∀ k, t.mem.peek k = s.mem.peek k

/-- Every byte of memory is unchanged but those at the listed addresses. -/
def MemKeptBut (s t : State) (stored : List Word) : Prop :=
  ∀ k, (∀ w ∈ stored, k ≠ w.toNat) → t.mem.peek k = s.mem.peek k

/-- In canonical memory, plain at the address, the byte stored there is `v`. -/
def Holds (s t : State) (w : Word) (v : Byte) : Prop :=
  s.mem.wf = true → s.plain w = true → t.mem.peek w.toNat = v

/-- N and Z as `SetNZ(r)` leaves them (41_alu.md R177). -/
def NZ (t : State) (r : Byte) : Prop := (t.flag .n = true ↔ 128 ≤ r.toNat) ∧ (t.flag .z = true ↔ r.toNat = 0)

/-- The tick's result: the cycles, the opcode the fetch observed, recognized (30_encoding.md R123). -/
def Reports (s t : State) (cycles : Nat) : Prop := t.result = ⟨cycles, s.result.opcodeObserved, true⟩

/-- An instruction that makes no bus access and writes no memory, and leaves PC after its bytes. -/
def Internal (s t : State) (cycles : Nat) : Prop := MemKept s t ∧ t.bus = s.bus ∧ t.pc = s.pc ∧ Reports s t cycles

/-- An instruction that reads its operand and writes no memory: the accesses of `Load(operand)` and no others, PC after its
bytes, and the cycles of 30_encoding.md R122. -/
def ReadsOperand (i : Instr) (m : Src) (s t : State) : Prop :=
  MemKept s t ∧ t.bus = (m.load s).2.2.bus ∧ t.pc = s.pc ∧ Reports s t (i.cycles (m.load s).2.1 0)

/-- An instruction that stores `v` at the effective address of `m`: that byte of memory and no other, one write after the pointer
reads, PC after its bytes, no penalty. -/
def StoresByte (i : Instr) (m : Mem) (v : Byte) (s t : State) : Prop :=
  MemKeptBut s t [(m.resolve s).1] ∧ Holds s t (m.resolve s).1 v ∧
    t.bus = (m.resolve s).2.2.bus ++ [.write (m.resolve s).1 v] ∧ t.pc = s.pc ∧ Reports s t (i.cycles false 0)

/-- Read-modify-write on memory by `f` (40_addressing.md R170): one read and one write of the effective address. `v` is the byte
read. -/
def ModifiesByte (i : Instr) (m : RmwMem) (f : Byte → Byte) (s t : State) (v : Byte) : Prop :=
  MemKeptBut s t [(m.toMem.resolve s).1] ∧ Holds s t (m.toMem.resolve s).1 (f v) ∧
    (s.plain (m.toMem.resolve s).1 = true → v = s.mem.peek (m.toMem.resolve s).1.toNat) ∧
    t.bus = s.bus ++ [.read (m.toMem.resolve s).1 v, .write (m.toMem.resolve s).1 (f v)] ∧ t.pc = s.pc ∧
    Reports s t (i.cycles false 0)

/-- `v` is the copy of P pushed with `B = b` (10_state.md R56): the six flags of `s` at their bits, bit 5 set, bit 4 `b`. -/
def PushedCopy (s : State) (b : Bool) (v : Byte) : Prop :=
  v.getLsbD 7 = s.flag .n ∧ v.getLsbD 6 = s.flag .v ∧ v.getLsbD 5 = true ∧ v.getLsbD 4 = b ∧
    v.getLsbD 3 = s.flag .d ∧ v.getLsbD 2 = s.flag .i ∧ v.getLsbD 1 = s.flag .z ∧ v.getLsbD 0 = s.flag .c

/-- Three bytes pushed, I set, PC from the vector (60_exceptions.md R303): `ret` is the saved PC, `b` bit 4 of the saved P. -/
structure Entered (s t : State) (ret : Word) (b : Bool) (vector : Word) : Prop where
  regs : RegsKept s t [.sp]
  sp : t.sp = s.sp - 3#8
  irqDisabled : t.flag .i = true
  flags : FlagsKept s t [.i]
  memory : MemKeptBut s t [stackAddr s.sp, stackAddr (s.sp - 1#8), stackAddr (s.sp - 2#8)]
  pcHigh : Holds s t (stackAddr s.sp) (hi8 ret)
  pcLow : Holds s t (stackAddr (s.sp - 1#8)) (lo8 ret)
  target : ∃ v lo hi, PushedCopy s b v ∧ Holds s t (stackAddr (s.sp - 2#8)) v ∧ t.pc = wordOf lo hi ∧
    t.bus = s.bus ++ [.write (stackAddr s.sp) (hi8 ret), .write (stackAddr (s.sp - 1#8)) (lo8 ret),
      .write (stackAddr (s.sp - 2#8)) v, .read vector lo, .read (vector + 1#16) hi] ∧
    (s.plain vector = true → lo = t.mem.peek vector.toNat) ∧
    (s.plain (vector + 1#16) = true → hi = t.mem.peek (vector + 1#16).toNat)

/-- Two packed decimal digits (00_scope.md, glossary: BCD). -/
def validBcd (v : Byte) : Prop := loNibble v ≤ 9 ∧ hiNibble v ≤ 9

/-- The number two packed decimal digits stand for. -/
def bcdValue (v : Byte) : Nat := hiNibble v * 10 + loNibble v

end Sys2Proof.Machine

namespace Sys2Proof

open Machine

/-! ## Who writes what (10_state.md R64) -/

/-- The 8-bit registers an instruction writes. -/
def Instr.regsWritten : Instr → List Reg
  | .lda _ => [.a]
  | .ldx _ => [.x]
  | .ldy _ => [.y]
  | .sta _ => []
  | .stx _ => []
  | .sty _ => []
  | .tax => [.x]
  | .tay => [.y]
  | .txa => [.a]
  | .tya => [.a]
  | .tsx => [.x]
  | .txs => [.sp]
  | .pha => [.sp]
  | .php => [.sp]
  | .pla => [.a, .sp]
  | .plp => [.sp]
  | .adc _ => [.a]
  | .sbc _ => [.a]
  | .cmp _ => []
  | .cpx _ => []
  | .cpy _ => []
  | .inc _ => []
  | .dec _ => []
  | .inx => [.x]
  | .iny => [.y]
  | .dex => [.x]
  | .dey => [.y]
  | .and _ => [.a]
  | .ora _ => [.a]
  | .eor _ => [.a]
  | .bit _ => []
  | .asl .acc => [.a]
  | .asl (.mem _) => []
  | .lsr .acc => [.a]
  | .lsr (.mem _) => []
  | .rol .acc => [.a]
  | .rol (.mem _) => []
  | .ror .acc => [.a]
  | .ror (.mem _) => []
  | .bcc _ => []
  | .bcs _ => []
  | .beq _ => []
  | .bne _ => []
  | .bmi _ => []
  | .bpl _ => []
  | .bvc _ => []
  | .bvs _ => []
  | .jmp _ => []
  | .jsr _ => [.sp]
  | .rts => [.sp]
  | .rti => [.sp]
  | .brk _ => [.sp]
  | .clc => []
  | .sec => []
  | .cli => []
  | .sei => []
  | .cld => []
  | .sed => []
  | .clv => []
  | .nop => []
  | .nopImp _ => []
  | .nopImm _ _ => []
  | .nopZp _ _ => []
  | .nopZpx _ _ => []
  | .nopAbs _ _ => []
  | .nopAbsx _ _ => []
  | .unrecognized _ => []

/-- The flags an instruction writes. -/
def Instr.flagsWritten : Instr → List Flag
  | .lda _ => [.n, .z]
  | .ldx _ => [.n, .z]
  | .ldy _ => [.n, .z]
  | .sta _ => []
  | .stx _ => []
  | .sty _ => []
  | .tax => [.n, .z]
  | .tay => [.n, .z]
  | .txa => [.n, .z]
  | .tya => [.n, .z]
  | .tsx => [.n, .z]
  | .txs => []
  | .pha => []
  | .php => []
  | .pla => [.n, .z]
  | .plp => [.n, .v, .d, .i, .z, .c]
  | .adc _ => [.n, .v, .z, .c]
  | .sbc _ => [.n, .v, .z, .c]
  | .cmp _ => [.n, .z, .c]
  | .cpx _ => [.n, .z, .c]
  | .cpy _ => [.n, .z, .c]
  | .inc _ => [.n, .z]
  | .dec _ => [.n, .z]
  | .inx => [.n, .z]
  | .iny => [.n, .z]
  | .dex => [.n, .z]
  | .dey => [.n, .z]
  | .and _ => [.n, .z]
  | .ora _ => [.n, .z]
  | .eor _ => [.n, .z]
  | .bit _ => [.n, .v, .z]
  | .asl _ => [.n, .z, .c]
  | .lsr _ => [.n, .z, .c]
  | .rol _ => [.n, .z, .c]
  | .ror _ => [.n, .z, .c]
  | .bcc _ => []
  | .bcs _ => []
  | .beq _ => []
  | .bne _ => []
  | .bmi _ => []
  | .bpl _ => []
  | .bvc _ => []
  | .bvs _ => []
  | .jmp _ => []
  | .jsr _ => []
  | .rts => []
  | .rti => [.n, .v, .d, .i, .z, .c]
  | .brk _ => [.i]
  | .clc => [.c]
  | .sec => [.c]
  | .cli => [.i]
  | .sei => [.i]
  | .cld => [.d]
  | .sed => [.d]
  | .clv => [.v]
  | .nop => []
  | .nopImp _ => []
  | .nopImm _ _ => []
  | .nopZp _ _ => []
  | .nopZpx _ _ => []
  | .nopAbs _ _ => []
  | .nopAbsx _ _ => []
  | .unrecognized _ => []

/-- Where an instruction stores: nowhere, at the effective address of its operand, or at the next `n` stack addresses. -/
inductive Stored where
  | nothing
  | operand (m : Mem)
  | pushes (n : Nat)
deriving DecidableEq, Repr

/-- Where an instruction stores (10_state.md R64). -/
def Instr.stored : Instr → Stored
  | .lda _ => .nothing
  | .ldx _ => .nothing
  | .ldy _ => .nothing
  | .sta m => .operand m
  | .stx m => .operand m
  | .sty m => .operand m
  | .tax => .nothing
  | .tay => .nothing
  | .txa => .nothing
  | .tya => .nothing
  | .tsx => .nothing
  | .txs => .nothing
  | .pha => .pushes 1
  | .php => .pushes 1
  | .pla => .nothing
  | .plp => .nothing
  | .adc _ => .nothing
  | .sbc _ => .nothing
  | .cmp _ => .nothing
  | .cpx _ => .nothing
  | .cpy _ => .nothing
  | .inc m => .operand m.toMem
  | .dec m => .operand m.toMem
  | .inx => .nothing
  | .iny => .nothing
  | .dex => .nothing
  | .dey => .nothing
  | .and _ => .nothing
  | .ora _ => .nothing
  | .eor _ => .nothing
  | .bit _ => .nothing
  | .asl .acc => .nothing
  | .asl (.mem m) => .operand m.toMem
  | .lsr .acc => .nothing
  | .lsr (.mem m) => .operand m.toMem
  | .rol .acc => .nothing
  | .rol (.mem m) => .operand m.toMem
  | .ror .acc => .nothing
  | .ror (.mem m) => .operand m.toMem
  | .bcc _ => .nothing
  | .bcs _ => .nothing
  | .beq _ => .nothing
  | .bne _ => .nothing
  | .bmi _ => .nothing
  | .bpl _ => .nothing
  | .bvc _ => .nothing
  | .bvs _ => .nothing
  | .jmp _ => .nothing
  | .jsr _ => .pushes 2
  | .rts => .nothing
  | .rti => .nothing
  | .brk _ => .pushes 3
  | .clc => .nothing
  | .sec => .nothing
  | .cli => .nothing
  | .sei => .nothing
  | .cld => .nothing
  | .sed => .nothing
  | .clv => .nothing
  | .nop => .nothing
  | .nopImp _ => .nothing
  | .nopImm _ _ => .nothing
  | .nopZp _ _ => .nothing
  | .nopZpx _ _ => .nothing
  | .nopAbs _ _ => .nothing
  | .nopAbsx _ _ => .nothing
  | .unrecognized _ => .nothing

/-- Whether an instruction writes memory. -/
def Instr.stores (i : Instr) : Bool := i.stored != .nothing

/-- The addresses an instruction stores to, in the state its fetch leaves. -/
def Instr.storedAt (i : Instr) (s : State) : List Word :=
  match i.stored with
  | .nothing => []
  | .operand m => [(m.resolve s).1]
  | .pushes n => (List.range n).map fun k => stackAddr (s.sp - BitVec.ofNat 8 k)

/-- Whether an instruction may leave PC elsewhere than after its bytes. -/
def Instr.movesPc : Instr → Bool
  | .lda _ => false
  | .ldx _ => false
  | .ldy _ => false
  | .sta _ => false
  | .stx _ => false
  | .sty _ => false
  | .tax => false
  | .tay => false
  | .txa => false
  | .tya => false
  | .tsx => false
  | .txs => false
  | .pha => false
  | .php => false
  | .pla => false
  | .plp => false
  | .adc _ => false
  | .sbc _ => false
  | .cmp _ => false
  | .cpx _ => false
  | .cpy _ => false
  | .inc _ => false
  | .dec _ => false
  | .inx => false
  | .iny => false
  | .dex => false
  | .dey => false
  | .and _ => false
  | .ora _ => false
  | .eor _ => false
  | .bit _ => false
  | .asl _ => false
  | .lsr _ => false
  | .rol _ => false
  | .ror _ => false
  | .bcc _ => true
  | .bcs _ => true
  | .beq _ => true
  | .bne _ => true
  | .bmi _ => true
  | .bpl _ => true
  | .bvc _ => true
  | .bvs _ => true
  | .jmp _ => true
  | .jsr _ => true
  | .rts => true
  | .rti => true
  | .brk _ => true
  | .clc => false
  | .sec => false
  | .cli => false
  | .sei => false
  | .cld => false
  | .sed => false
  | .clv => false
  | .nop => false
  | .nopImp _ => false
  | .nopImm _ _ => false
  | .nopZp _ _ => false
  | .nopZpx _ _ => false
  | .nopAbs _ _ => false
  | .nopAbsx _ _ => false
  | .unrecognized _ => true

end Sys2Proof
end

