-- ==== Sys2Proof/Certificates/Slice0/Obligations.lean ====
section
/-!
DEFINITION. The statements about the model, in the order of OBLIGATIONS.json. Each docstring names the rule of spec/ it formalises.
-/

open Sys2Proof Sys2Proof.Machine

/-! ## Encoding -/

/-- 30_encoding.md R111 to R119: decoding an encoded instruction, whatever bytes follow it, gives it back with all its operands. -/
def Obligations.DecodeAfterEncode : Prop :=
  ∀ (i : Instr) (rest : List Byte), i.wellFormed = true → decode (encode i ++ rest) = .ok (i, rest)

/-- 30_encoding.md R111, R112: what a decoded list of bytes starts with is the encoding of the instruction, which is
well-formed and as long as its format says. -/
def Obligations.EncodeAfterDecode : Prop :=
  ∀ (bytes : List Byte) (i : Instr) (rest : List Byte), decode bytes = .ok (i, rest) →
    i.wellFormed = true ∧ bytes = encode i ++ rest ∧ (encode i).length = i.length

/-- 30_encoding.md R114: every opcode byte selects exactly one entry, and the operand bytes change neither the mode nor the
length; a list of bytes is refused only when it is too short for its opcode. -/
def Obligations.EveryOpcodeByteDecodes : Prop :=
  decodeTable.length = 256 ∧
  (∀ op : Byte, decodeTable[op.toNat]? = some (entryOf op)) ∧
  (∀ op b1 b2 : Byte, (decodeOp op b1 b2).opcode? = some op ∧ (decodeOp op b1 b2).wellFormed = true ∧
    (decodeOp op b1 b2).mode = (decodeOp op 0#8 0#8).mode ∧ (decodeOp op b1 b2).length = (decodeOp op 0#8 0#8).length) ∧
  (∀ (op : Byte) (rest : List Byte), (decodeOp op 0#8 0#8).length ≤ rest.length + 1 → ∃ i rest', decode (op :: rest) = .ok (i, rest')) ∧
  (∀ (op : Byte) (rest : List Byte), rest.length + 1 < (decodeOp op 0#8 0#8).length →
    decode (op :: rest) = .error (.missingOperand op)) ∧
  decode [] = .error .noOpcode

/-- Words of 30_encoding.md R116, written out bit by bit, one of each family. -/
def Obligations.SampleWordsDecode : Prop :=
  decode [0b10101001#8, 0b10000000#8] = .ok (.lda (.imm 0x80#8), []) ∧
  decode [0b10010110#8, 0b11111111#8] = .ok (.stx (.zpy 0xFF#8), []) ∧
  decode [0b10011010#8] = .ok (.txs, []) ∧
  decode [0b01110001#8, 0b00100000#8] = .ok (.adc (.mem (.indy 0x20#8)), []) ∧
  decode [0b11011110#8, 0b00110100#8, 0b00010010#8] = .ok (.dec (.absx 0x1234#16), []) ∧
  decode [0b01101010#8] = .ok (.ror .acc, []) ∧
  decode [0b01101100#8, 0b11111111#8, 0b00010000#8] = .ok (.jmp (.ind 0x10FF#16), []) ∧
  decode [0b00000000#8, 0b01010101#8] = .ok (.brk 0x55#8, []) ∧
  decode [0b11011000#8] = .ok (.cld, []) ∧
  decode [0b00011100#8, 0b11111111#8, 0b00010010#8] = .ok (.nopAbsx 0x1C#8 0x12FF#16, []) ∧
  decode [0b00000010#8] = .ok (.unrecognized 0x02#8, [])

/-- 30_encoding.md R116 to R118: 151 documented opcodes, 27 illegal NOPs, and the 78 listed opcodes are the unrecognized ones. -/
def Obligations.OpcodeClassesPartitionTheBytes : Prop :=
  (decodeTable.filter fun e => e.cls = .documented).length = 151 ∧
  (decodeTable.filter fun e => e.cls = .illegalNop).length = 27 ∧
  (∀ op b1 b2 : Byte, (entryOf op).cls = .unrecognized ↔ decodeOp op b1 b2 = .unrecognized op) ∧
  (∀ op : Byte, (entryOf op).cls = .unrecognized ↔ op ∈ unrecognizedOpcodes) ∧
  (∀ op : Byte, (entryOf op).cls = .illegalNop ↔
    op ∈ nopImpOpcodes ++ nopImmOpcodes ++ nopZpOpcodes ++ nopZpxOpcodes ++ nopAbsOpcodes ++ nopAbsxOpcodes)

/-- 30_encoding.md R115, R122: mode, base cycles and penalty flags of an entry are those of the instruction it makes, and the
page-cross flag is set exactly on the read forms of the three indexed modes. -/
def Obligations.EntriesAgreeWithInstructions : Prop :=
  ∀ op b1 b2 : Byte, let e := entryOf op; let i := decodeOp op b1 b2
    e.mode = i.mode ∧ e.base = i.baseCycles ∧ e.pageCross = i.pageCrossFlag ∧
    (e.branch = true ↔ i.mode = .rel) ∧
    (∀ crossed extra, i.cycles crossed extra = e.base + (e.pageCross && crossed).toNat + extra) ∧
    (e.pageCross = true ↔ (i.mode = .absx ∨ i.mode = .absy ∨ i.mode = .indy) ∧ i.stores = false)

/-! ## The tick -/

/-- 30_encoding.md R120, R121: where no interrupt is polled and the bytes at PC, in plain memory, decode to an instruction, the
tick is that instruction's meaning in the state its fetch leaves: one read for each fetched byte, PC past them, the opcode
observed. -/
def Obligations.StepRunsTheDecodedInstruction : Prop :=
  ∀ (s : State) (i : Instr) (rest : List Byte), s.tickAllowed → s.poll = none →
    decode [s.mem.peek s.pc.toNat, s.mem.peek (s.pc + 1#16).toNat, s.mem.peek (s.pc + 2#16).toNat] = .ok (i, rest) →
    (∀ k, k ≤ i.fetches → s.plain (s.pc + BitVec.ofNat 16 k) = true) →
    step s = exec i { s with
      pc := s.pc + BitVec.ofNat 16 (i.fetches + 1)
      bus := (List.range (i.fetches + 1)).map fun k =>
        .read (s.pc + BitVec.ofNat 16 k) (s.mem.peek (s.pc + BitVec.ofNat 16 k).toNat)
      result := { s.result with opcodeObserved := s.mem.peek s.pc.toNat } }

/-- 30_encoding.md R113, 40_addressing.md R166, on any bus: the fetch reads the bytes of a well-formed instruction at consecutive
addresses, once each, low operand byte first, and leaves PC after them: the bytes the bus answered are those of the instruction's
encoding, and in plain memory those memory holds. JSR's last byte is not read yet, nor is BRK's signature ever. -/
def Obligations.FetchReadsTheInstructionBytes : Prop :=
  ∀ s : State, let i := s.fetchInstr.1; let t := s.fetchInstr.2
    i.wellFormed = true ∧ i.opcode? = some t.result.opcodeObserved ∧
    t.pc = s.pc + BitVec.ofNat 16 (i.fetches + 1) ∧
    (let bytes := (encode i).take (i.fetches + 1)
     bytes.length = i.fetches + 1 ∧ bytes.head? = some t.result.opcodeObserved ∧
     t.bus = s.bus ++ (bytes.zipIdx.map fun bk => .read (s.pc + BitVec.ofNat 16 bk.2) bk.1) ∧
     ∀ k, k ≤ i.fetches → s.plain (s.pc + BitVec.ofNat 16 k) = true →
       bytes[k]? = some (s.mem.peek (s.pc + BitVec.ofNat 16 k).toNat)) ∧
    (i.fetches + 1 = i.length ∨ (∃ w, i = .jsr w) ∨ ∃ b, i = .brk b) ∧
    RegsKept s t [] ∧ t.p = s.p ∧ RestKept s t ∧ t.mem = s.mem

/-- 70_reset_and_hazards.md R334: a tick before any reset is refused; every other tick gives a next state. -/
def Obligations.OnlyATickBeforeResetIsRefused : Prop :=
  ∀ s : State,
    (s.started = false ∧ s.resetPending = false → step s = .refused .tickBeforeReset) ∧
    (s.tickAllowed → ∃ t, step s = .next t)

/-- 60_exceptions.md R301, R302: RESET over NMI over IRQ, IRQ only when I = 0, and what the serviced source leaves pending stays
pending. -/
def Obligations.PollChoosesTheHighestSource : Prop :=
  ∀ s : State,
    (s.poll = some .reset ↔ s.resetPending = true) ∧
    (s.poll = some .nmi ↔ s.resetPending = false ∧ s.nmiPending = true) ∧
    (s.poll = some .irq ↔ s.resetPending = false ∧ s.nmiPending = false ∧ s.irqPending = true ∧ s.flag .i = false) ∧
    (s.poll = none ↔ s.resetPending = false ∧ s.nmiPending = false ∧ (s.irqPending = false ∨ s.flag .i = true)) ∧
    (s.started = true → s.poll = some .nmi → ∃ t, step s = .next t ∧ t.irqPending = s.irqPending ∧ t.resetPending = false)

/-- 60_exceptions.md R304: the NMI sequence. The copy of P it pushes has B = 0 (10_state.md R56). -/
def Obligations.NmiSequence : Prop :=
  ∀ s : State, s.started = true → s.resetPending = false → s.nmiPending = true →
    ∃ t, step s = .next t ∧ Entered { s with bus := [] } t s.pc false 0xFFFA#16 ∧ t.nmiPending = false ∧
      t.resetPending = false ∧ t.irqPending = s.irqPending ∧ t.started = true ∧ t.params = s.params ∧ t.oracle = s.oracle ∧
      t.result.cyclesConsumed = 7 ∧ t.result.recognized = true

/-- 60_exceptions.md R305, R309: the IRQ sequence, and whether it clears the line's latch. The copy of P it pushes has B = 0
(10_state.md R56), which tells it from BRK (R314). -/
def Obligations.IrqSequence : Prop :=
  ∀ s : State, s.started = true → s.resetPending = false → s.nmiPending = false → s.irqPending = true → s.flag .i = false →
    ∃ t, step s = .next t ∧ Entered { s with bus := [] } t s.pc false 0xFFFE#16 ∧
      t.irqPending = !s.params.irqClearOnService ∧
      t.nmiPending = false ∧ t.resetPending = false ∧ t.started = true ∧ t.params = s.params ∧ t.oracle = s.oracle ∧
      t.result.cyclesConsumed = 7 ∧ t.result.recognized = true

/-- 60_exceptions.md R306, R310: the RESET sequence. A, X, Y, N, V, Z, C are free values, of which nothing is said. -/
def Obligations.ResetSequence : Prop :=
  ∀ s : State, s.resetPending = true →
    ∃ t lo hi, step s = .next t ∧
      t.sp = (match s.params.resetSP with | .decrement3 => s.sp - 3#8 | .forceFD => 0xFD#8) ∧
      t.flag .i = true ∧ t.flag .d = false ∧ t.p.getLsbD 5 = true ∧ t.p.getLsbD 4 = false ∧
      t.pc = wordOf lo hi ∧ t.bus = [.read 0xFFFC#16 lo, .read 0xFFFD#16 hi] ∧
      (s.plain 0xFFFC#16 = true → lo = s.mem.peek 0xFFFC) ∧ (s.plain 0xFFFD#16 = true → hi = s.mem.peek 0xFFFD) ∧
      t.resetPending = false ∧ t.nmiPending = false ∧ t.irqPending = false ∧ t.started = true ∧
      t.mem = s.mem ∧ t.params = s.params ∧ t.oracle = s.oracle ∧
      t.result.cyclesConsumed = 7 ∧ t.result.recognized = true

/-- 70_reset_and_hazards.md R339: a change of I by CLI, SEI, PLP or RTI acts at the next poll. -/
def Obligations.MaskChangesActAtTheNextPoll : Prop :=
  ∀ s : State, s.resetPending = false → s.nmiPending = false → s.irqPending = true →
    (∃ t, exec .cli s = .next t ∧ t.poll = some .irq) ∧
    (∃ t, exec .sei s = .next t ∧ t.poll = none) ∧
    (∃ t, exec .plp s = .next t ∧ (t.poll = some .irq ↔ s.pull.1.getLsbD 2 = false)) ∧
    (∃ t, exec .rti s = .next t ∧ (t.poll = some .irq ↔ s.pull.1.getLsbD 2 = false))

/-! ## Invariants -/

/-- 10_state.md R63: every tick from a legal state gives a legal state: bit 5 of P is 1, bit 4 is 0, and memory (log 5) stays
in its canonical form. -/
def Obligations.EveryTickKeepsLegality : Prop :=
  ∀ s t : State, s.legal → step s = .next t → t.legal

/-- 10_state.md R65: the state after the first RESET sequence is legal and holds the values the rule gives. -/
def Obligations.ResetStateIsLegal : Prop :=
  State.reset.legal ∧ State.reset.sp = 0xFD#8 ∧ State.reset.flag .i = true ∧ State.reset.flag .d = false ∧
    State.reset.pc = (State.reset.readWord 0xFFFC#16).1 ∧ State.reset.resetPending = false ∧
    State.reset.nmiPending = false ∧ State.reset.irqPending = false ∧ State.reset.started = true

/-- 10_state.md R63 with 70_reset_and_hazards.md R332: every run of host operations and ticks from a constructed block, with any
memory contents, any bus and any parameters, ends in a legal state. -/
def Obligations.EveryHostRunIsLegal : Prop :=
  ∀ (m : Memory) (o : List Region) (pr : Params) (d : Nat) (run : List Drive) (t : State), m.wf = true →
    runHost run (State.construct m o pr d) = .next t → t.legal

/-- 70_reset_and_hazards.md R332, R335: construct, reset() and one tick give the reset state up to what the spec leaves
unspecified, under every setting of the parameters and every free value. -/
def Obligations.BootReachesTheResetState : Prop :=
  ∀ (m : Memory) (pr : Params) (d : Nat),
    ∃ t, runHost [.call .reset, .tick] (State.construct m [] pr d) = .next t ∧
      t.sp = 0xFD#8 ∧ t.flag .i = true ∧ t.flag .d = false ∧ t.pLegal ∧
      t.pc = wordOf (m.peek 0xFFFC) (m.peek 0xFFFD) ∧ t.started = true ∧
      t.resetPending = false ∧ t.nmiPending = false ∧ t.irqPending = false ∧ t.mem = m ∧ t.params = pr

/-! ## Whole-machine rules -/

/-- Every instruction completes, on every state, and reports its opcode (30_encoding.md R121, R123; 60_exceptions.md R316). -/
def Obligations.EveryInstructionCompletes : Prop :=
  ∀ (i : Instr) (s : State), ∃ t, exec i s = .next t ∧
    (∀ op, i.opcode? = some op → s.result.opcodeObserved = op → t.result.opcodeObserved = op) ∧
    (t.result.recognized = false ↔ ∃ op, i = .unrecognized op)

/-- 10_state.md R64: an instruction writes the registers, flags and memory of its row and nothing else: of memory, the byte at its
operand's effective address or at the stack addresses it pushes to. PC moves only for the control transfers. No instruction
writes a latch or `started`. That the parameters and the host's declarations are state that no instruction writes is the model's
choice (log 6, log 8). -/
def Obligations.WhoWritesWhat : Prop :=
  ∀ (i : Instr) (s t : State), exec i s = .next t →
    RegsKept s t i.regsWritten ∧ (∀ f, f ∉ i.flagsWritten → t.flag f = s.flag f) ∧ (s.pLegal → t.pLegal) ∧ RestKept s t ∧
    MemKeptBut s t (i.storedAt s) ∧ (i.stores = false → t.mem = s.mem) ∧ (i.movesPc = false → t.pc = s.pc)

/-- Only ADC and SBC compute with D: the spec's own inference from its source's silence, 41_alu.md R183. For every other instruction, D changes no register, no other flag, not the
result of the tick, and no memory but the copies of P that PHP and BRK push. -/
def Obligations.DecimalModeAffectsOnlyAdcAndSbc : Prop :=
  ∀ (i : Instr) (s t t' : State) (d : Bool), (∀ m, i ≠ .adc m) → (∀ m, i ≠ .sbc m) →
    exec i s = .next t → exec i (s.setFlag .d d) = .next t' →
    (∀ r, t'.reg r = t.reg r) ∧ t'.pc = t.pc ∧ (∀ f, f ≠ .d → t'.flag f = t.flag f) ∧ t'.result = t.result ∧
    (i ≠ .php → (∀ b, i ≠ .brk b) → t'.mem = t.mem)

/-- A tick depends on no earlier cycle count and no earlier bus access, as 70_reset_and_hazards.md R345 and 20_memory.md R100
lead one to expect. That the state records the last result and accesses, and that each tick begins with no access recorded, is
the model's choice (log 14). -/
def Obligations.TicksIgnoreEarlierResults : Prop :=
  ∀ (s : State) (r : TickResult) (bus : List BusAccess), step { s with result := r, bus := bus } = step s

/-! ## Addressing -/

/-- 40_addressing.md R155 to R160, R164: the addresses that take no pointer, as numbers, and their page crossings. No access is
made. -/
def Obligations.DirectAddresses : Prop :=
  ∀ (s : State) (b : Byte) (w : Word),
    ((Mem.zp b).resolve s = (BitVec.ofNat 16 b.toNat, false, s)) ∧
    ((Mem.zpx b).resolve s = (BitVec.ofNat 16 ((b.toNat + s.x.toNat) % 256), false, s)) ∧
    ((Mem.zpy b).resolve s = (BitVec.ofNat 16 ((b.toNat + s.y.toNat) % 256), false, s)) ∧
    ((Mem.abs w).resolve s = (w, false, s)) ∧
    ((Mem.absx w).resolve s =
      (BitVec.ofNat 16 (w.toNat + s.x.toNat), decide (256 ≤ w.toNat % 256 + s.x.toNat), s)) ∧
    ((Mem.absy w).resolve s =
      (BitVec.ofNat 16 (w.toNat + s.y.toNat), decide (256 ≤ w.toNat % 256 + s.y.toNat), s))

/-- 40_addressing.md R162, R163, 20_memory.md R87: the modes through a pointer of page 0, which wraps inside page 0; two reads, low
byte first. -/
def Obligations.IndirectAddresses : Prop :=
  ∀ (s : State) (b : Byte),
    (∃ lo hi t, (Mem.indx b).resolve s = (wordOf lo hi, false, t) ∧
      t.bus = s.bus ++ [.read (zext16 (b + s.x)) lo, .read (zext16 (b + s.x + 1#8)) hi] ∧
      (s.plain (zext16 (b + s.x)) = true → lo = s.mem.peek (b + s.x).toNat) ∧
      (s.plain (zext16 (b + s.x + 1#8)) = true → hi = s.mem.peek (b + s.x + 1#8).toNat)) ∧
    (∃ lo hi t, (Mem.indy b).resolve s =
        (BitVec.ofNat 16 ((wordOf lo hi).toNat + s.y.toNat), decide (256 ≤ lo.toNat + s.y.toNat), t) ∧
      t.bus = s.bus ++ [.read (zext16 b) lo, .read (zext16 (b + 1#8)) hi] ∧
      (s.plain (zext16 b) = true → lo = s.mem.peek b.toNat) ∧
      (s.plain (zext16 (b + 1#8)) = true → hi = s.mem.peek (b + 1#8).toNat))

/-- 40_addressing.md R165: the branch target is PC plus the signed offset, modulo 65536. -/
def Obligations.BranchTargetIsSigned : Prop :=
  ∀ (pc : Word) (o : Byte), ((branchTarget pc o).toNat : Int) = ((pc.toNat : Int) + o.toInt) % 65536

/-- 40_addressing.md R168: a load of an immediate makes no access; a load of memory is one read of the effective address, after the
pointer reads, and in plain memory gives the byte there. Registers, P, PC and memory are unchanged. -/
def Obligations.LoadReadsTheOperand : Prop :=
  (∀ (v : Byte) (s : State), (Src.imm v).load s = (v, false, s)) ∧
  (∀ (m : Mem) (s : State), ∃ v t, (Src.mem m).load s = (v, (m.resolve s).2.1, t) ∧
    t.bus = (m.resolve s).2.2.bus ++ [.read (m.resolve s).1 v] ∧
    (s.plain (m.resolve s).1 = true → v = s.mem.peek (m.resolve s).1.toNat) ∧
    (∀ r, t.reg r = s.reg r) ∧ t.p = s.p ∧ t.pc = s.pc ∧ t.mem = s.mem ∧ RestKept s t)

/-! ## Memory and the stack -/

/-- 20_memory.md R92, R93: a push writes at SP and then decrements it; a pull increments SP and then reads; a pull after a push gives
the byte pushed and the old SP. -/
def Obligations.PushAndPull : Prop :=
  ∀ (s : State) (v : Byte),
    ((stackAddr s.sp).toNat = 0x100 + s.sp.toNat) ∧
    ((s.push v).sp.toNat = (s.sp.toNat + 255) % 256 ∧ (s.push v).bus = s.bus ++ [.write (stackAddr s.sp) v] ∧
      Holds s (s.push v) (stackAddr s.sp) v ∧ MemKeptBut s (s.push v) [stackAddr s.sp]) ∧
    (s.pull.2.sp.toNat = (s.sp.toNat + 1) % 256 ∧ s.pull.2.bus = s.bus ++ [.read (stackAddr (s.sp + 1#8)) s.pull.1] ∧
      (s.plain (stackAddr (s.sp + 1#8)) = true → s.pull.1 = s.mem.peek (stackAddr (s.sp + 1#8)).toNat) ∧ s.pull.2.mem = s.mem) ∧
    (s.mem.wf = true → s.plain (stackAddr s.sp) = true → (s.push v).pull.1 = v ∧ (s.push v).pull.2.sp = s.sp)

/-- 20_memory.md R101: in plain memory a read gives the last byte written there; writes elsewhere do not matter. Outside it a write
changes no plain byte (log 7). -/
def Obligations.PlainMemoryReadsBackWrites : Prop :=
  ∀ (s : State) (w u : Word) (v : Byte), s.mem.wf = true →
    (s.plain w = true → ((s.memWrite w v).memRead w).1 = v) ∧
    (u ≠ w → s.plain u = true → ((s.memWrite w v).memRead u).1 = s.mem.peek u.toNat) ∧
    (s.plain w = false → (s.memWrite w v).mem = s.mem) ∧
    (s.memWrite w v).bus = s.bus ++ [.write w v] ∧ (s.memWrite w v).mem.wf = true

/-- 43_transfer_stack.md R217 to R220: "PHP; PLP" gives back P, and "PHA; PLA" gives back A, with SP as before. -/
def Obligations.PushThenPullRestores : Prop :=
  ∀ s : State, s.legal → s.plain (stackAddr s.sp) = true →
    (∃ t u, exec .php s = .next t ∧ exec .plp t = .next u ∧ u.p = s.p ∧ u.sp = s.sp) ∧
    (∃ t u, exec .pha s = .next t ∧ exec .pla t = .next u ∧ u.a = s.a ∧ u.sp = s.sp)

/-- 46_control.md R267: "JSR target" followed by RTS comes back to the instruction after the JSR. PC of `s` is the address of the
last byte of the JSR. -/
def Obligations.CallThenReturn : Prop :=
  ∀ (s : State) (target : Word), s.mem.wf = true → s.plain (stackAddr s.sp) = true → s.plain (stackAddr (s.sp - 1#8)) = true →
    ∃ t u, exec (.jsr target) s = .next t ∧ exec .rts t = .next u ∧ u.pc = s.pc + 1#16 ∧ u.sp = s.sp ∧ u.p = s.p ∧
      RegsKept s u []

/-- 60_exceptions.md R312: an RTI right after an interrupt entry resumes at the saved PC with P as it was. -/
def Obligations.EntryThenReturn : Prop :=
  ∀ (s : State) (b : Bool) (vector : Word), s.legal → s.plain (stackAddr s.sp) = true →
    s.plain (stackAddr (s.sp - 1#8)) = true → s.plain (stackAddr (s.sp - 2#8)) = true →
    ∃ u, exec .rti (s.interruptEntry b vector) = .next u ∧ u.pc = s.pc ∧ u.p = s.p ∧ RegsKept s u []

/-! ## Loads, stores, transfers, stack -/

/-- 42_load_store.md R201 to R203. -/
def Obligations.LoadsSetTheirRegister : Prop :=
  ∀ (m : Src) (s : State),
    ((Instr.lda m).opcode? = opcodeAt [.imm, .zp, .zpx, .abs, .absx, .absy, .indx, .indy]
        [0xA9, 0xA5, 0xB5, 0xAD, 0xBD, 0xB9, 0xA1, 0xB1] m.mode ∧
      ∃ t, exec (.lda m) s = .next t ∧ t.a = (m.load s).1 ∧ NZ t t.a ∧ Frame s t [.a] [.n, .z] ∧ ReadsOperand (.lda m) m s t) ∧
    ((Instr.ldx m).opcode? = opcodeAt [.imm, .zp, .zpy, .abs, .absy] [0xA2, 0xA6, 0xB6, 0xAE, 0xBE] m.mode ∧
      ∃ t, exec (.ldx m) s = .next t ∧ t.x = (m.load s).1 ∧ NZ t t.x ∧ Frame s t [.x] [.n, .z] ∧ ReadsOperand (.ldx m) m s t) ∧
    ((Instr.ldy m).opcode? = opcodeAt [.imm, .zp, .zpx, .abs, .absx] [0xA0, 0xA4, 0xB4, 0xAC, 0xBC] m.mode ∧
      ∃ t, exec (.ldy m) s = .next t ∧ t.y = (m.load s).1 ∧ NZ t t.y ∧ Frame s t [.y] [.n, .z] ∧ ReadsOperand (.ldy m) m s t)

/-- 42_load_store.md R204 to R206. -/
def Obligations.StoresWriteOneByte : Prop :=
  ∀ (m : Mem) (s : State),
    ((Instr.sta m).opcode? = opcodeAt [.zp, .zpx, .abs, .absx, .absy, .indx, .indy]
        [0x85, 0x95, 0x8D, 0x9D, 0x99, 0x81, 0x91] m.mode ∧
      ∃ t, exec (.sta m) s = .next t ∧ Frame s t [] [] ∧ StoresByte (.sta m) m s.a s t) ∧
    ((Instr.stx m).opcode? = opcodeAt [.zp, .zpy, .abs] [0x86, 0x96, 0x8E] m.mode ∧
      ∃ t, exec (.stx m) s = .next t ∧ Frame s t [] [] ∧ StoresByte (.stx m) m s.x s t) ∧
    ((Instr.sty m).opcode? = opcodeAt [.zp, .zpx, .abs] [0x84, 0x94, 0x8C] m.mode ∧
      ∃ t, exec (.sty m) s = .next t ∧ Frame s t [] [] ∧ StoresByte (.sty m) m s.y s t)

/-- 43_transfer_stack.md R211 to R216; TXS writes no flag. -/
def Obligations.TransfersCopyRegisters : Prop :=
  ∀ s : State,
    (encode .tax = [0xAA] ∧ ∃ t, exec .tax s = .next t ∧ t.x = s.a ∧ NZ t s.a ∧ Frame s t [.x] [.n, .z] ∧ Internal s t 2) ∧
    (encode .tay = [0xA8] ∧ ∃ t, exec .tay s = .next t ∧ t.y = s.a ∧ NZ t s.a ∧ Frame s t [.y] [.n, .z] ∧ Internal s t 2) ∧
    (encode .txa = [0x8A] ∧ ∃ t, exec .txa s = .next t ∧ t.a = s.x ∧ NZ t s.x ∧ Frame s t [.a] [.n, .z] ∧ Internal s t 2) ∧
    (encode .tya = [0x98] ∧ ∃ t, exec .tya s = .next t ∧ t.a = s.y ∧ NZ t s.y ∧ Frame s t [.a] [.n, .z] ∧ Internal s t 2) ∧
    (encode .tsx = [0xBA] ∧ ∃ t, exec .tsx s = .next t ∧ t.x = s.sp ∧ NZ t s.sp ∧ Frame s t [.x] [.n, .z] ∧ Internal s t 2) ∧
    (encode .txs = [0x9A] ∧ ∃ t, exec .txs s = .next t ∧ t.sp = s.x ∧ Frame s t [.sp] [] ∧ Internal s t 2)

/-- 43_transfer_stack.md R217, R218: one byte stored at the stack address, SP one less, no flag; PHP's byte has bits 4 and 5 set. -/
def Obligations.PushesStoreOneByte : Prop :=
  ∀ s : State,
    (encode .pha = [0x48] ∧ ∃ t, exec .pha s = .next t ∧ t.sp = s.sp - 1#8 ∧ Frame s t [.sp] [] ∧ t.pc = s.pc ∧
      MemKeptBut s t [stackAddr s.sp] ∧ Holds s t (stackAddr s.sp) s.a ∧
      t.bus = s.bus ++ [.write (stackAddr s.sp) s.a] ∧ Reports s t 3) ∧
    (encode .php = [0x08] ∧ ∃ t v, exec .php s = .next t ∧ t.sp = s.sp - 1#8 ∧ Frame s t [.sp] [] ∧ t.pc = s.pc ∧
      (∀ f, flagOf v f = s.flag f) ∧ v.getLsbD 4 = true ∧ v.getLsbD 5 = true ∧
      MemKeptBut s t [stackAddr s.sp] ∧ Holds s t (stackAddr s.sp) v ∧
      t.bus = s.bus ++ [.write (stackAddr s.sp) v] ∧ Reports s t 3)

/-- 43_transfer_stack.md R219, R220: SP one more and one read there; PLA takes A, N and Z from the byte, PLP all six flags, with bit
4 clear and bit 5 set. -/
def Obligations.PullsLoadOneByte : Prop :=
  ∀ s : State,
    (encode .pla = [0x68] ∧ ∃ t v, exec .pla s = .next t ∧ t.sp = s.sp + 1#8 ∧ t.a = v ∧ NZ t v ∧
      Frame s t [.a, .sp] [.n, .z] ∧ MemKept s t ∧ t.pc = s.pc ∧
      (s.plain (stackAddr (s.sp + 1#8)) = true → v = s.mem.peek (stackAddr (s.sp + 1#8)).toNat) ∧
      t.bus = s.bus ++ [.read (stackAddr (s.sp + 1#8)) v] ∧ Reports s t 4) ∧
    (encode .plp = [0x28] ∧ ∃ t v, exec .plp s = .next t ∧ t.sp = s.sp + 1#8 ∧ (∀ f, t.flag f = flagOf v f) ∧ t.pLegal ∧
      RegsKept s t [.sp] ∧ RestKept s t ∧ MemKept s t ∧ t.pc = s.pc ∧
      (s.plain (stackAddr (s.sp + 1#8)) = true → v = s.mem.peek (stackAddr (s.sp + 1#8)).toNat) ∧
      t.bus = s.bus ++ [.read (stackAddr (s.sp + 1#8)) v] ∧ Reports s t 4)

/-! ## Arithmetic and compare -/

/-- 44_arithmetic.md R226 in binary mode, with 41_alu.md R178 as numbers: A is the sum modulo 256, C its carry, V its signed
overflow. -/
def Obligations.AdcBinarySum : Prop :=
  ∀ (m : Src) (s : State), s.flag .d = false →
    ∃ t, exec (.adc m) s = .next t ∧
      t.a.toNat = (s.a.toNat + (m.load s).1.toNat + (s.flag .c).toNat) % 256 ∧
      (t.flag .c = true ↔ 256 ≤ s.a.toNat + (m.load s).1.toNat + (s.flag .c).toNat) ∧
      (t.flag .v = true ↔ s.a.toInt + (m.load s).1.toInt + (s.flag .c).toNat < -128 ∨
        127 < s.a.toInt + (m.load s).1.toInt + (s.flag .c).toNat) ∧
      NZ t t.a ∧ Frame s t [.a] [.n, .v, .z, .c] ∧ ReadsOperand (.adc m) m s t

/-- 44_arithmetic.md R226 in decimal mode: the digits of 41_alu.md R180, the flags of R182 under both settings of
`P_DECIMAL_NV`. -/
def Obligations.AdcDecimalDigitsAndFlags : Prop :=
  ∀ (m : Src) (s : State), s.flag .d = true →
    ∃ t, exec (.adc m) s = .next t ∧
      (let v := (m.load s).1
       let low := s.a.toNat % 16 + v.toNat % 16 + (s.flag .c).toNat
       let lo := if 9 < low then low + 6 else low
       let high := s.a.toNat / 16 + v.toNat / 16 + (if 15 < lo then 1 else 0)
       let hi := if 9 < high then high + 6 else high
       let mid : Int := (s.a &&& 0xF0#8).toInt + (v &&& 0xF0#8).toInt + ((lo % 16 + if 15 < lo then 16 else 0 : Nat) : Int)
       let sum := s.a.toNat + v.toNat + (s.flag .c).toNat
       t.a.toNat = hi % 16 * 16 + lo % 16 ∧
       (t.flag .c = true ↔ 9 < high) ∧
       (t.flag .z = true ↔ sum % 256 = 0) ∧
       (s.params.decimalNV = .binary → (t.flag .n = true ↔ 128 ≤ sum % 256) ∧
         (t.flag .v = true ↔ s.a.toInt + v.toInt + (s.flag .c).toNat < -128 ∨ 127 < s.a.toInt + v.toInt + (s.flag .c).toNat)) ∧
       (s.params.decimalNV = .nmosIntermediate → (t.flag .n = true ↔ 128 ≤ mid % 256) ∧
         (t.flag .v = true ↔ mid < -128 ∨ 127 < mid))) ∧
      Frame s t [.a] [.n, .v, .z, .c] ∧ ReadsOperand (.adc m) m s t

/-- 44_arithmetic.md R227, 41_alu.md R179, R181, R182: in both modes every flag is that of the binary difference, C the borrow-not;
A is the binary difference, or the digits of R181. -/
def Obligations.SbcInBothModes : Prop :=
  ∀ (m : Src) (s : State),
    ∃ t, exec (.sbc m) s = .next t ∧
      (let v := (m.load s).1
       let borrow := (!s.flag .c).toNat
       let diff : Int := (s.a.toNat : Int) - v.toNat - borrow
       let low : Int := (s.a.toNat % 16 : Nat) - (v.toNat % 16 : Nat) - borrow
       let high : Int := (s.a.toNat / 16 : Nat) - (v.toNat / 16 : Nat) - (if low < 0 then 1 else 0)
       let lo := if low < 0 then low - 6 else low
       let hi := if high < 0 then high - 6 else high
       (s.flag .d = false → (t.a.toNat : Int) = diff % 256) ∧
       (s.flag .d = true → (t.a.toNat : Int) = hi % 16 * 16 + lo % 16) ∧
       (t.flag .c = true ↔ 0 ≤ diff) ∧
       (t.flag .z = true ↔ diff % 256 = 0) ∧
       (t.flag .n = true ↔ 128 ≤ diff % 256) ∧
       (t.flag .v = true ↔ s.a.toInt - v.toInt - borrow < -128 ∨ 127 < s.a.toInt - v.toInt - borrow)) ∧
      Frame s t [.a] [.n, .v, .z, .c] ∧ ReadsOperand (.sbc m) m s t

/-- 41_alu.md R180, R181 on valid BCD: decimal addition and subtraction are those of two-digit decimal numbers, with their carry
and borrow. -/
def Obligations.DecimalDigitsAreDecimal : Prop :=
  ∀ (a b : Byte) (c : Bool), validBcd a → validBcd b →
    validBcd (decimalAdd a b c).1 ∧ validBcd (decimalSub a b c) ∧
    bcdValue (decimalAdd a b c).1 = (bcdValue a + bcdValue b + c.toNat) % 100 ∧
    ((decimalAdd a b c).2 = true ↔ 100 ≤ bcdValue a + bcdValue b + c.toNat) ∧
    bcdValue (decimalSub a b c) = (bcdValue a + 100 - bcdValue b - (!c).toNat) % 100 ∧
    ((aluSub a b c).c = true ↔ bcdValue b + (!c).toNat ≤ bcdValue a)

/-- 44_arithmetic.md R227: on valid BCD, ADC M and then SBC M restores A when the carry before SBC is `1 - C`. -/
def Obligations.SbcUndoesAdcOnBcd : Prop :=
  ∀ (v : Byte) (s : State), s.flag .d = true → validBcd s.a → validBcd v →
    ∃ t u, exec (.adc (.imm v)) s = .next t ∧ exec (.sbc (.imm v)) (t.setFlag .c (!s.flag .c)) = .next u ∧ u.a = s.a

/-- 44_arithmetic.md R228 to R230, 41_alu.md R185: C is the unsigned comparison, Z equality, N bit 7 of the difference; no register
and no other flag is written. -/
def Obligations.ComparesSetOnlyNZC : Prop :=
  ∀ (m : Src) (s : State), let v := (m.load s).1
    ((Instr.cmp m).opcode? = opcodeAt [.imm, .zp, .zpx, .abs, .absx, .absy, .indx, .indy]
        [0xC9, 0xC5, 0xD5, 0xCD, 0xDD, 0xD9, 0xC1, 0xD1] m.mode ∧
      ∃ t, exec (.cmp m) s = .next t ∧ (t.flag .c = true ↔ v.toNat ≤ s.a.toNat) ∧ NZ t (s.a - v) ∧
        (t.flag .z = true ↔ s.a = v) ∧ Frame s t [] [.n, .z, .c] ∧ ReadsOperand (.cmp m) m s t) ∧
    ((Instr.cpx m).opcode? = opcodeAt [.imm, .zp, .abs] [0xE0, 0xE4, 0xEC] m.mode ∧
      ∃ t, exec (.cpx m) s = .next t ∧ (t.flag .c = true ↔ v.toNat ≤ s.x.toNat) ∧ NZ t (s.x - v) ∧
        (t.flag .z = true ↔ s.x = v) ∧ Frame s t [] [.n, .z, .c] ∧ ReadsOperand (.cpx m) m s t) ∧
    ((Instr.cpy m).opcode? = opcodeAt [.imm, .zp, .abs] [0xC0, 0xC4, 0xCC] m.mode ∧
      ∃ t, exec (.cpy m) s = .next t ∧ (t.flag .c = true ↔ v.toNat ≤ s.y.toNat) ∧ NZ t (s.y - v) ∧
        (t.flag .z = true ↔ s.y = v) ∧ Frame s t [] [.n, .z, .c] ∧ ReadsOperand (.cpy m) m s t)

/-- 44_arithmetic.md R231, R232: one read and one write of the effective address; N and Z from the byte written. -/
def Obligations.IncAndDecMemory : Prop :=
  ∀ (m : RmwMem) (s : State),
    ((Instr.inc m).opcode? = opcodeAt [.zp, .zpx, .abs, .absx] [0xE6, 0xF6, 0xEE, 0xFE] m.mode ∧
      ∃ t v, exec (.inc m) s = .next t ∧ ModifiesByte (.inc m) m (· + 1#8) s t v ∧ NZ t (v + 1#8) ∧ Frame s t [] [.n, .z]) ∧
    ((Instr.dec m).opcode? = opcodeAt [.zp, .zpx, .abs, .absx] [0xC6, 0xD6, 0xCE, 0xDE] m.mode ∧
      ∃ t v, exec (.dec m) s = .next t ∧ ModifiesByte (.dec m) m (· - 1#8) s t v ∧ NZ t (v - 1#8) ∧ Frame s t [] [.n, .z])

/-- 44_arithmetic.md R233 to R236. -/
def Obligations.IncAndDecRegisters : Prop :=
  ∀ s : State,
    (encode .inx = [0xE8] ∧ ∃ t, exec .inx s = .next t ∧ t.x.toNat = (s.x.toNat + 1) % 256 ∧ NZ t t.x ∧
      Frame s t [.x] [.n, .z] ∧ Internal s t 2) ∧
    (encode .iny = [0xC8] ∧ ∃ t, exec .iny s = .next t ∧ t.y.toNat = (s.y.toNat + 1) % 256 ∧ NZ t t.y ∧
      Frame s t [.y] [.n, .z] ∧ Internal s t 2) ∧
    (encode .dex = [0xCA] ∧ ∃ t, exec .dex s = .next t ∧ t.x.toNat = (s.x.toNat + 255) % 256 ∧ NZ t t.x ∧
      Frame s t [.x] [.n, .z] ∧ Internal s t 2) ∧
    (encode .dey = [0x88] ∧ ∃ t, exec .dey s = .next t ∧ t.y.toNat = (s.y.toNat + 255) % 256 ∧ NZ t t.y ∧
      Frame s t [.y] [.n, .z] ∧ Internal s t 2)

/-! ## Logic and shifts -/

/-- 45_logic_shift.md R241 to R243. -/
def Obligations.LogicCombinesWithA : Prop :=
  ∀ (m : Src) (s : State),
    ((Instr.and m).opcode? = opcodeAt [.imm, .zp, .zpx, .abs, .absx, .absy, .indx, .indy]
        [0x29, 0x25, 0x35, 0x2D, 0x3D, 0x39, 0x21, 0x31] m.mode ∧
      ∃ t, exec (.and m) s = .next t ∧ t.a = s.a &&& (m.load s).1 ∧ NZ t t.a ∧ Frame s t [.a] [.n, .z] ∧
        ReadsOperand (.and m) m s t) ∧
    ((Instr.ora m).opcode? = opcodeAt [.imm, .zp, .zpx, .abs, .absx, .absy, .indx, .indy]
        [0x09, 0x05, 0x15, 0x0D, 0x1D, 0x19, 0x01, 0x11] m.mode ∧
      ∃ t, exec (.ora m) s = .next t ∧ t.a = s.a ||| (m.load s).1 ∧ NZ t t.a ∧ Frame s t [.a] [.n, .z] ∧
        ReadsOperand (.ora m) m s t) ∧
    ((Instr.eor m).opcode? = opcodeAt [.imm, .zp, .zpx, .abs, .absx, .absy, .indx, .indy]
        [0x49, 0x45, 0x55, 0x4D, 0x5D, 0x59, 0x41, 0x51] m.mode ∧
      ∃ t, exec (.eor m) s = .next t ∧ t.a = s.a ^^^ (m.load s).1 ∧ NZ t t.a ∧ Frame s t [.a] [.n, .z] ∧
        ReadsOperand (.eor m) m s t)

/-- 45_logic_shift.md R244: Z from A and M, N and V from bits 7 and 6 of M, whatever A holds. -/
def Obligations.BitTestsTheOperand : Prop :=
  ∀ (m : Mem) (s : State), let v := ((Src.mem m).load s).1
    (Instr.bit m).opcode? = opcodeAt [.zp, .abs] [0x24, 0x2C] m.mode ∧
    ∃ t, exec (.bit m) s = .next t ∧ (t.flag .z = true ↔ s.a &&& v = 0#8) ∧ t.flag .n = v.getLsbD 7 ∧
      t.flag .v = v.getLsbD 6 ∧ Frame s t [] [.n, .v, .z] ∧ ReadsOperand (.bit m) (.mem m) s t

/-- 45_logic_shift.md R245 to R248 on the accumulator: the results as numbers, C the bit shifted out, ROL and ROR through the old
carry, no bus access. -/
def Obligations.ShiftsOfTheAccumulator : Prop :=
  ∀ s : State, let cin := (s.flag .c).toNat
    (encode (.asl .acc) = [0x0A] ∧ ∃ t, exec (.asl .acc) s = .next t ∧ t.a.toNat = 2 * s.a.toNat % 256 ∧
      t.flag .c = s.a.getLsbD 7 ∧ NZ t t.a ∧ Frame s t [.a] [.n, .z, .c] ∧ Internal s t 2) ∧
    (encode (.lsr .acc) = [0x4A] ∧ ∃ t, exec (.lsr .acc) s = .next t ∧ t.a.toNat = s.a.toNat / 2 ∧
      t.flag .c = s.a.getLsbD 0 ∧ NZ t t.a ∧ Frame s t [.a] [.n, .z, .c] ∧ Internal s t 2) ∧
    (encode (.rol .acc) = [0x2A] ∧ ∃ t, exec (.rol .acc) s = .next t ∧ t.a.toNat = (2 * s.a.toNat + cin) % 256 ∧
      t.flag .c = s.a.getLsbD 7 ∧ NZ t t.a ∧ Frame s t [.a] [.n, .z, .c] ∧ Internal s t 2) ∧
    (encode (.ror .acc) = [0x6A] ∧ ∃ t, exec (.ror .acc) s = .next t ∧ t.a.toNat = s.a.toNat / 2 + 128 * cin ∧
      t.flag .c = s.a.getLsbD 0 ∧ NZ t t.a ∧ Frame s t [.a] [.n, .z, .c] ∧ Internal s t 2)

/-- 45_logic_shift.md R245 to R248 on memory: one read and one write of the effective address. -/
def Obligations.ShiftsOfMemory : Prop :=
  ∀ (m : RmwMem) (s : State), let cin := (s.flag .c).toNat
    ((Instr.asl (.mem m)).opcode? = opcodeAt [.zp, .zpx, .abs, .absx] [0x06, 0x16, 0x0E, 0x1E] m.mode ∧
      ∃ t v r, exec (.asl (.mem m)) s = .next t ∧ ModifiesByte (.asl (.mem m)) m (fun _ => r) s t v ∧
        r.toNat = 2 * v.toNat % 256 ∧ t.flag .c = v.getLsbD 7 ∧ NZ t r ∧ Frame s t [] [.n, .z, .c]) ∧
    ((Instr.lsr (.mem m)).opcode? = opcodeAt [.zp, .zpx, .abs, .absx] [0x46, 0x56, 0x4E, 0x5E] m.mode ∧
      ∃ t v r, exec (.lsr (.mem m)) s = .next t ∧ ModifiesByte (.lsr (.mem m)) m (fun _ => r) s t v ∧
        r.toNat = v.toNat / 2 ∧ t.flag .c = v.getLsbD 0 ∧ NZ t r ∧ Frame s t [] [.n, .z, .c]) ∧
    ((Instr.rol (.mem m)).opcode? = opcodeAt [.zp, .zpx, .abs, .absx] [0x26, 0x36, 0x2E, 0x3E] m.mode ∧
      ∃ t v r, exec (.rol (.mem m)) s = .next t ∧ ModifiesByte (.rol (.mem m)) m (fun _ => r) s t v ∧
        r.toNat = (2 * v.toNat + cin) % 256 ∧ t.flag .c = v.getLsbD 7 ∧ NZ t r ∧ Frame s t [] [.n, .z, .c]) ∧
    ((Instr.ror (.mem m)).opcode? = opcodeAt [.zp, .zpx, .abs, .absx] [0x66, 0x76, 0x6E, 0x7E] m.mode ∧
      ∃ t v r, exec (.ror (.mem m)) s = .next t ∧ ModifiesByte (.ror (.mem m)) m (fun _ => r) s t v ∧
        r.toNat = v.toNat / 2 + 128 * cin ∧ t.flag .c = v.getLsbD 0 ∧ NZ t r ∧ Frame s t [] [.n, .z, .c])

/-! ## Control transfer -/

/-- 46_control.md R256 to R264: a branch whose condition holds goes to PC plus the signed offset, in 3 cycles, or 4 to another page;
one whose condition fails stays, in 2. Only PC is written and no access is made. -/
def Obligations.BranchesFollowTheirFlag : Prop :=
  ∀ (o : Byte) (s : State),
    ∀ row ∈ [(Instr.bcc o, 0x90#8, !s.flag .c), (Instr.bcs o, 0xB0#8, s.flag .c), (Instr.beq o, 0xF0#8, s.flag .z),
        (Instr.bne o, 0xD0#8, !s.flag .z), (Instr.bmi o, 0x30#8, s.flag .n), (Instr.bpl o, 0x10#8, !s.flag .n),
        (Instr.bvc o, 0x50#8, !s.flag .v), (Instr.bvs o, 0x70#8, s.flag .v)],
      encode row.1 = [row.2.1, o] ∧
      ∃ t, exec row.1 s = .next t ∧ Frame s t [] [] ∧ t.mem = s.mem ∧ t.bus = s.bus ∧
        (row.2.2 = true → (t.pc.toNat : Int) = ((s.pc.toNat : Int) + o.toInt) % 65536 ∧
          Reports s t (if hi8 t.pc = hi8 s.pc then 3 else 4)) ∧
        (row.2.2 = false → t.pc = s.pc ∧ Reports s t 2)

/-- 46_control.md R265: JMP to its operand, or through the pointer, whose high byte is read inside the pointer's page. -/
def Obligations.JmpGoesToItsTarget : Prop :=
  ∀ (w : Word) (s : State),
    (encode (.jmp (.abs w)) = [0x4C, lo8 w, hi8 w] ∧
      ∃ t, exec (.jmp (.abs w)) s = .next t ∧ t.pc = w ∧ Frame s t [] [] ∧ t.mem = s.mem ∧ t.bus = s.bus ∧ Reports s t 3) ∧
    (encode (.jmp (.ind w)) = [0x6C, lo8 w, hi8 w] ∧
      ∃ t lo hi, exec (.jmp (.ind w)) s = .next t ∧ t.pc = wordOf lo hi ∧ Frame s t [] [] ∧ t.mem = s.mem ∧
        t.bus = s.bus ++ [.read w lo, .read (wordOf (lo8 w + 1#8) (hi8 w)) hi] ∧
        (s.plain w = true → lo = s.mem.peek w.toNat) ∧
        (s.plain (wordOf (lo8 w + 1#8) (hi8 w)) = true → hi = s.mem.peek (wordOf (lo8 w + 1#8) (hi8 w)).toNat) ∧
        Reports s t 5)

/-- 46_control.md R266: the address of the last byte of the JSR is pushed, and then that byte is read as the high byte of the
target. -/
def Obligations.JsrPushesThenReadsItsHighByte : Prop :=
  ∀ (target : Word) (s : State), encode (.jsr target) = [0x20, lo8 target, hi8 target] ∧
    ∃ t hh, exec (.jsr target) s = .next t ∧ t.pc = wordOf (lo8 target) hh ∧ t.sp = s.sp - 2#8 ∧ Frame s t [.sp] [] ∧
      MemKeptBut s t [stackAddr s.sp, stackAddr (s.sp - 1#8)] ∧
      Holds s t (stackAddr s.sp) (hi8 s.pc) ∧ Holds s t (stackAddr (s.sp - 1#8)) (lo8 s.pc) ∧
      t.bus = s.bus ++ [.write (stackAddr s.sp) (hi8 s.pc), .write (stackAddr (s.sp - 1#8)) (lo8 s.pc), .read s.pc hh] ∧
      (s.plain s.pc = true → hh = t.mem.peek s.pc.toNat) ∧ Reports s t 6

/-- 46_control.md R266 as a whole tick: a JSR in plain memory whose last byte is not one of the two stack addresses it writes goes
to the target written in its bytes. -/
def Obligations.JsrTickReachesItsTarget : Prop :=
  ∀ (s : State) (target : Word), s.tickAllowed → s.poll = none → s.oracle = [] →
    s.mem.peek s.pc.toNat = 0x20#8 → s.mem.peek (s.pc + 1#16).toNat = lo8 target → s.mem.peek (s.pc + 2#16).toNat = hi8 target →
    s.pc + 2#16 ≠ stackAddr s.sp → s.pc + 2#16 ≠ stackAddr (s.sp - 1#8) →
    ∃ t, step s = .next t ∧ t.pc = target ∧ t.sp = s.sp - 2#8

/-- 46_control.md R267: two pulls, low byte first, and PC one past what was pulled. -/
def Obligations.RtsPullsPcPlusOne : Prop :=
  ∀ s : State, encode .rts = [0x60] ∧
    ∃ t lo hi, exec .rts s = .next t ∧ t.pc = wordOf lo hi + 1#16 ∧ t.sp = s.sp + 2#8 ∧ Frame s t [.sp] [] ∧ t.mem = s.mem ∧
      t.bus = s.bus ++ [.read (stackAddr (s.sp + 1#8)) lo, .read (stackAddr (s.sp + 2#8)) hi] ∧
      (s.plain (stackAddr (s.sp + 1#8)) = true → lo = s.mem.peek (stackAddr (s.sp + 1#8)).toNat) ∧
      (s.plain (stackAddr (s.sp + 2#8)) = true → hi = s.mem.peek (stackAddr (s.sp + 2#8)).toNat) ∧ Reports s t 6

/-- 46_control.md R268: three pulls, P then PC, with no one added. -/
def Obligations.RtiRestoresPAndPc : Prop :=
  ∀ s : State, encode .rti = [0x40] ∧
    ∃ t v lo hi, exec .rti s = .next t ∧ (∀ f, t.flag f = flagOf v f) ∧ t.pLegal ∧ t.pc = wordOf lo hi ∧ t.sp = s.sp + 3#8 ∧
      RegsKept s t [.sp] ∧ RestKept s t ∧ t.mem = s.mem ∧
      t.bus = s.bus ++ [.read (stackAddr (s.sp + 1#8)) v, .read (stackAddr (s.sp + 2#8)) lo, .read (stackAddr (s.sp + 3#8)) hi] ∧
      (s.plain (stackAddr (s.sp + 1#8)) = true → v = s.mem.peek (stackAddr (s.sp + 1#8)).toNat) ∧
      (s.plain (stackAddr (s.sp + 2#8)) = true → lo = s.mem.peek (stackAddr (s.sp + 2#8)).toNat) ∧
      (s.plain (stackAddr (s.sp + 3#8)) = true → hi = s.mem.peek (stackAddr (s.sp + 3#8)).toNat) ∧ Reports s t 6

/-- 46_control.md R269: BRK enters through 0xFFFE with B = 1 whatever I is, saving the address after its signature byte, which is not
read. -/
def Obligations.BrkEntersThroughItsVector : Prop :=
  ∀ (signature : Byte) (s : State), encode (.brk signature) = [0x00, signature] ∧
    ∃ t, exec (.brk signature) s = .next t ∧ Entered s t (s.pc + 1#16) true 0xFFFE#16 ∧ RestKept s t ∧ Reports s t 7

/-! ## Flags, NOPs, unrecognized opcodes -/

/-- 47_flags_nop.md R276 to R282: each writes its one flag. -/
def Obligations.FlagInstructionsWriteOneFlag : Prop :=
  ∀ s : State,
    ∀ row ∈ [(Instr.clc, 0x18#8, Flag.c, false), (Instr.sec, 0x38#8, Flag.c, true), (Instr.cli, 0x58#8, Flag.i, false),
        (Instr.sei, 0x78#8, Flag.i, true), (Instr.cld, 0xD8#8, Flag.d, false), (Instr.sed, 0xF8#8, Flag.d, true),
        (Instr.clv, 0xB8#8, Flag.v, false)],
      encode row.1 = [row.2.1] ∧
      ∃ t, exec row.1 s = .next t ∧ t.flag row.2.2.1 = row.2.2.2 ∧ Frame s t [] [row.2.2.1] ∧ Internal s t 2

/-- 47_flags_nop.md R283 to R289: the NOPs change nothing and read nothing beyond their own bytes; Absolute,X takes a fifth cycle
when X carries out of the low address byte. -/
def Obligations.NopsOnlyAdvance : Prop :=
  ∀ (op v : Byte) (w : Word) (s : State),
    (encode .nop = [0xEA] ∧ ∃ t, exec .nop s = .next t ∧ Frame s t [] [] ∧ Internal s t 2) ∧
    (encode (.nopImp op) = [op] ∧ ∃ t, exec (.nopImp op) s = .next t ∧ Frame s t [] [] ∧ Internal s t 2) ∧
    (encode (.nopImm op v) = [op, v] ∧ ∃ t, exec (.nopImm op v) s = .next t ∧ Frame s t [] [] ∧ Internal s t 2) ∧
    (encode (.nopZp op v) = [op, v] ∧ ∃ t, exec (.nopZp op v) s = .next t ∧ Frame s t [] [] ∧ Internal s t 3) ∧
    (encode (.nopZpx op v) = [op, v] ∧ ∃ t, exec (.nopZpx op v) s = .next t ∧ Frame s t [] [] ∧ Internal s t 4) ∧
    (encode (.nopAbs op w) = [op, lo8 w, hi8 w] ∧
      ∃ t, exec (.nopAbs op w) s = .next t ∧ Frame s t [] [] ∧ Internal s t 4) ∧
    (encode (.nopAbsx op w) = [op, lo8 w, hi8 w] ∧
      ∃ t, exec (.nopAbsx op w) s = .next t ∧ Frame s t [] [] ∧
        Internal s t (if 256 ≤ w.toNat % 256 + s.x.toNat then 5 else 4))

/-- 47_flags_nop.md R290: two cycles, not recognized, nothing changes but PC, which stays after the opcode or goes back to it as
`P_UNRECOGNIZED_ADVANCE` says. -/
def Obligations.UnrecognizedOpcodesAreReported : Prop :=
  ∀ (op : Byte) (s : State), encode (.unrecognized op) = [op] ∧
    ∃ t, exec (.unrecognized op) s = .next t ∧ Frame s t [] [] ∧ t.mem = s.mem ∧ t.bus = s.bus ∧
      t.pc = (if s.params.unrecognizedAdvance then s.pc else s.pc - 1#16) ∧ t.result = ⟨2, op, false⟩

/-! ## The host's operations -/

/-- 60_exceptions.md R298 to R300, R321: each request writes its latch and nothing else; a write of the mutator changes the one
field it names and nothing else, with P normalised; the snapshot shows the registers and the latches. That one call of the
mutator writes one field is the model's choice (log 23). -/
def Obligations.HostOperationsWriteTheirLatch : Prop :=
  ∀ (s : State) (level : Bool) (v : Byte) (w : Word),
    s.hostReset = { s with resetPending := true } ∧ s.hostNmi = { s with nmiPending := true } ∧
    s.hostNmi.hostNmi = s.hostNmi ∧ s.hostIrqSet level = { s with irqPending := level } ∧
    s.mutate (.a v) = { s with a := v } ∧ s.mutate (.x v) = { s with x := v } ∧ s.mutate (.y v) = { s with y := v } ∧
    s.mutate (.sp v) = { s with sp := v } ∧ s.mutate (.pc w) = { s with pc := w } ∧
    (∃ p, s.mutate (.p v) = { s with p := p } ∧ (s.mutate (.p v)).pLegal ∧ ∀ f, (s.mutate (.p v)).flag f = flagOf v f) ∧
    s.mutate (.resetPending level) = { s with resetPending := level } ∧
    s.mutate (.nmiPending level) = { s with nmiPending := level } ∧
    s.mutate (.irqPending level) = { s with irqPending := level } ∧
    s.snapshot = ⟨s.a, s.x, s.y, s.sp, s.pc, s.p, s.resetPending, s.nmiPending, s.irqPending⟩

/-- 30_encoding.md R124: the offset the assembler encodes for a branch at `address` to `target` is the one that branches there;
it encodes every offset byte, and refuses a target exactly when no distance in -128..127 leads to it. Distances are taken modulo
65536, which is the model's reading (log 24). -/
def Obligations.AssembledBranchReachesItsTarget : Prop :=
  ∀ address target : Word,
    (∀ o : Byte, branchOffset address target = some o → branchTarget (address + 2#16) o = target) ∧
    (∀ o : Byte, branchOffset address (branchTarget (address + 2#16) o) = some o) ∧
    (branchOffset address target = none ↔
      ∀ d : Int, -128 ≤ d → d ≤ 127 → (target.toNat : Int) ≠ ((address.toNat : Int) + 2 + d) % 65536)
end

