-- ==== Sys2Proof/Laws/Decode.lean ====
section
/-!
SUPPORT. Bytes and words as numbers, and the round trips between them.
-/

namespace Sys2Proof

theorem wordOf_toNat (lo hi : Byte) : (wordOf lo hi).toNat = hi.toNat * 256 + lo.toNat := by
  have h : (wordOf lo hi).toNat = hi.toNat <<< 8 ||| lo.toNat := BitVec.toNat_append hi lo
  rw [h, Nat.shiftLeft_eq, Nat.mul_comm, ← Nat.two_pow_add_eq_or_of_lt lo.isLt]

theorem lo8_toNat (w : Word) : (lo8 w).toNat = w.toNat % 256 := by
  simp [lo8]

theorem hi8_toNat (w : Word) : (hi8 w).toNat = w.toNat / 256 := by
  have := w.isLt
  simp [hi8, Nat.shiftRight_eq_div_pow]
  omega

@[simp] theorem zext16_toNat (b : Byte) : (zext16 b).toNat = b.toNat := by
  have := b.isLt
  simp [zext16]
  omega

@[simp] theorem lo8_wordOf (lo hi : Byte) : lo8 (wordOf lo hi) = lo := by
  apply BitVec.eq_of_toNat_eq
  have := lo.isLt
  rw [lo8_toNat, wordOf_toNat]
  omega

@[simp] theorem hi8_wordOf (lo hi : Byte) : hi8 (wordOf lo hi) = hi := by
  apply BitVec.eq_of_toNat_eq
  have := lo.isLt
  rw [hi8_toNat, wordOf_toNat]
  omega

@[simp] theorem wordOf_lo8_hi8 (w : Word) : wordOf (lo8 w) (hi8 w) = w := by
  apply BitVec.eq_of_toNat_eq
  rw [wordOf_toNat, lo8_toNat, hi8_toNat]
  omega

/-! ## The decode table, row by row -/

theorem opcodeRow0_length : opcodeRow0.length = 16 := rfl
theorem opcodeRow1_length : opcodeRow1.length = 16 := rfl
theorem opcodeRow2_length : opcodeRow2.length = 16 := rfl
theorem opcodeRow3_length : opcodeRow3.length = 16 := rfl
theorem opcodeRow4_length : opcodeRow4.length = 16 := rfl
theorem opcodeRow5_length : opcodeRow5.length = 16 := rfl
theorem opcodeRow6_length : opcodeRow6.length = 16 := rfl
theorem opcodeRow7_length : opcodeRow7.length = 16 := rfl
theorem opcodeRow8_length : opcodeRow8.length = 16 := rfl
theorem opcodeRow9_length : opcodeRow9.length = 16 := rfl
theorem opcodeRowA_length : opcodeRowA.length = 16 := rfl
theorem opcodeRowB_length : opcodeRowB.length = 16 := rfl
theorem opcodeRowC_length : opcodeRowC.length = 16 := rfl
theorem opcodeRowD_length : opcodeRowD.length = 16 := rfl
theorem opcodeRowE_length : opcodeRowE.length = 16 := rfl
theorem opcodeRowF_length : opcodeRowF.length = 16 := rfl

theorem decodeTable_length : decodeTable.length = 256 := by
  simp only [decodeTable, List.length_append, opcodeRow0_length, opcodeRow1_length, opcodeRow2_length, opcodeRow3_length, opcodeRow4_length, opcodeRow5_length,
    opcodeRow6_length, opcodeRow7_length, opcodeRow8_length, opcodeRow9_length, opcodeRowA_length, opcodeRowB_length,
    opcodeRowC_length, opcodeRowD_length, opcodeRowE_length, opcodeRowF_length]

/-- The entry of an opcode byte, with its index in the table. -/
theorem entryOf_mem (op : Byte) : (entryOf op, op.toNat) ∈ decodeTable.zipIdx := by
  have h : op.toNat < decodeTable.length := by
    rw [decodeTable_length]
    exact op.isLt
  rw [List.mem_zipIdx_iff_getElem?]
  simp only [entryOf, List.getD_eq_getElem?_getD, List.getElem?_eq_getElem h, Option.getD_some]

/-- A fact of every entry and its opcode is one fact of each row of sixteen. -/
theorem forall_opcode {P : Nat → DecodeEntry → Prop}
    (h0 : ∀ q ∈ opcodeRow0.zipIdx 0x00, P q.2 q.1)
    (h1 : ∀ q ∈ opcodeRow1.zipIdx 0x10, P q.2 q.1)
    (h2 : ∀ q ∈ opcodeRow2.zipIdx 0x20, P q.2 q.1)
    (h3 : ∀ q ∈ opcodeRow3.zipIdx 0x30, P q.2 q.1)
    (h4 : ∀ q ∈ opcodeRow4.zipIdx 0x40, P q.2 q.1)
    (h5 : ∀ q ∈ opcodeRow5.zipIdx 0x50, P q.2 q.1)
    (h6 : ∀ q ∈ opcodeRow6.zipIdx 0x60, P q.2 q.1)
    (h7 : ∀ q ∈ opcodeRow7.zipIdx 0x70, P q.2 q.1)
    (h8 : ∀ q ∈ opcodeRow8.zipIdx 0x80, P q.2 q.1)
    (h9 : ∀ q ∈ opcodeRow9.zipIdx 0x90, P q.2 q.1)
    (hA : ∀ q ∈ opcodeRowA.zipIdx 0xA0, P q.2 q.1)
    (hB : ∀ q ∈ opcodeRowB.zipIdx 0xB0, P q.2 q.1)
    (hC : ∀ q ∈ opcodeRowC.zipIdx 0xC0, P q.2 q.1)
    (hD : ∀ q ∈ opcodeRowD.zipIdx 0xD0, P q.2 q.1)
    (hE : ∀ q ∈ opcodeRowE.zipIdx 0xE0, P q.2 q.1)
    (hF : ∀ q ∈ opcodeRowF.zipIdx 0xF0, P q.2 q.1) :
    ∀ op : Byte, P op.toNat (entryOf op) := by
  intro op
  have h := entryOf_mem op
  simp only [decodeTable, List.zipIdx_append, List.mem_append, List.length_append, opcodeRow0_length, opcodeRow1_length, opcodeRow2_length, opcodeRow3_length, opcodeRow4_length, opcodeRow5_length,
    opcodeRow6_length, opcodeRow7_length, opcodeRow8_length, opcodeRow9_length, opcodeRowA_length, opcodeRowB_length,
    opcodeRowC_length, opcodeRowD_length, opcodeRowE_length] at h
  rcases h with ((((((((((((((h | h) | h) | h) | h) | h) | h) | h) | h) | h) | h) | h) | h) | h) | h) | h
  · exact h0 _ h
  · exact h1 _ h
  · exact h2 _ h
  · exact h3 _ h
  · exact h4 _ h
  · exact h5 _ h
  · exact h6 _ h
  · exact h7 _ h
  · exact h8 _ h
  · exact h9 _ h
  · exact hA _ h
  · exact hB _ h
  · exact hC _ h
  · exact hD _ h
  · exact hE _ h
  · exact hF _ h

end Sys2Proof
end

