-- ==== Sys2Proof/Laws/State.lean ====
section
/-!
SUPPORT. One lemma per field per named update of the state, true by rfl, so that no later proof unfolds a record update.
-/

namespace Sys2Proof.Machine

/-! ### setFlag -/

@[simp] theorem State.setFlag_a (s : State) (f : Flag) (b : Bool) : (s.setFlag f b).a = s.a := rfl
@[simp] theorem State.setFlag_x (s : State) (f : Flag) (b : Bool) : (s.setFlag f b).x = s.x := rfl
@[simp] theorem State.setFlag_y (s : State) (f : Flag) (b : Bool) : (s.setFlag f b).y = s.y := rfl
@[simp] theorem State.setFlag_sp (s : State) (f : Flag) (b : Bool) : (s.setFlag f b).sp = s.sp := rfl
@[simp] theorem State.setFlag_pc (s : State) (f : Flag) (b : Bool) : (s.setFlag f b).pc = s.pc := rfl
@[simp] theorem State.setFlag_p (s : State) (f : Flag) (b : Bool) : (s.setFlag f b).p = putBit s.p f.bit b := rfl
@[simp] theorem State.setFlag_resetPending (s : State) (f : Flag) (b : Bool) : (s.setFlag f b).resetPending = s.resetPending := rfl
@[simp] theorem State.setFlag_nmiPending (s : State) (f : Flag) (b : Bool) : (s.setFlag f b).nmiPending = s.nmiPending := rfl
@[simp] theorem State.setFlag_irqPending (s : State) (f : Flag) (b : Bool) : (s.setFlag f b).irqPending = s.irqPending := rfl
@[simp] theorem State.setFlag_started (s : State) (f : Flag) (b : Bool) : (s.setFlag f b).started = s.started := rfl
@[simp] theorem State.setFlag_mem (s : State) (f : Flag) (b : Bool) : (s.setFlag f b).mem = s.mem := rfl
@[simp] theorem State.setFlag_oracle (s : State) (f : Flag) (b : Bool) : (s.setFlag f b).oracle = s.oracle := rfl
@[simp] theorem State.setFlag_params (s : State) (f : Flag) (b : Bool) : (s.setFlag f b).params = s.params := rfl
@[simp] theorem State.setFlag_draws (s : State) (f : Flag) (b : Bool) : (s.setFlag f b).draws = s.draws := rfl
@[simp] theorem State.setFlag_bus (s : State) (f : Flag) (b : Bool) : (s.setFlag f b).bus = s.bus := rfl
@[simp] theorem State.setFlag_result (s : State) (f : Flag) (b : Bool) : (s.setFlag f b).result = s.result := rfl

/-! ### setNZ -/

@[simp] theorem State.setNZ_a (s : State) (r : Byte) : (s.setNZ r).a = s.a := rfl
@[simp] theorem State.setNZ_x (s : State) (r : Byte) : (s.setNZ r).x = s.x := rfl
@[simp] theorem State.setNZ_y (s : State) (r : Byte) : (s.setNZ r).y = s.y := rfl
@[simp] theorem State.setNZ_sp (s : State) (r : Byte) : (s.setNZ r).sp = s.sp := rfl
@[simp] theorem State.setNZ_pc (s : State) (r : Byte) : (s.setNZ r).pc = s.pc := rfl
@[simp] theorem State.setNZ_p (s : State) (r : Byte) : (s.setNZ r).p = putBit (putBit s.p 7 (r.getLsbD 7)) 1 (r == 0#8) := rfl
@[simp] theorem State.setNZ_resetPending (s : State) (r : Byte) : (s.setNZ r).resetPending = s.resetPending := rfl
@[simp] theorem State.setNZ_nmiPending (s : State) (r : Byte) : (s.setNZ r).nmiPending = s.nmiPending := rfl
@[simp] theorem State.setNZ_irqPending (s : State) (r : Byte) : (s.setNZ r).irqPending = s.irqPending := rfl
@[simp] theorem State.setNZ_started (s : State) (r : Byte) : (s.setNZ r).started = s.started := rfl
@[simp] theorem State.setNZ_mem (s : State) (r : Byte) : (s.setNZ r).mem = s.mem := rfl
@[simp] theorem State.setNZ_oracle (s : State) (r : Byte) : (s.setNZ r).oracle = s.oracle := rfl
@[simp] theorem State.setNZ_params (s : State) (r : Byte) : (s.setNZ r).params = s.params := rfl
@[simp] theorem State.setNZ_draws (s : State) (r : Byte) : (s.setNZ r).draws = s.draws := rfl
@[simp] theorem State.setNZ_bus (s : State) (r : Byte) : (s.setNZ r).bus = s.bus := rfl
@[simp] theorem State.setNZ_result (s : State) (r : Byte) : (s.setNZ r).result = s.result := rfl

/-! ### setNZC -/

@[simp] theorem State.setNZC_a (s : State) (f : AluResult) : (s.setNZC f).a = s.a := rfl
@[simp] theorem State.setNZC_x (s : State) (f : AluResult) : (s.setNZC f).x = s.x := rfl
@[simp] theorem State.setNZC_y (s : State) (f : AluResult) : (s.setNZC f).y = s.y := rfl
@[simp] theorem State.setNZC_sp (s : State) (f : AluResult) : (s.setNZC f).sp = s.sp := rfl
@[simp] theorem State.setNZC_pc (s : State) (f : AluResult) : (s.setNZC f).pc = s.pc := rfl
@[simp] theorem State.setNZC_p (s : State) (f : AluResult) : (s.setNZC f).p = putBit (putBit (putBit s.p 7 f.n) 1 f.z) 0 f.c := rfl
@[simp] theorem State.setNZC_resetPending (s : State) (f : AluResult) : (s.setNZC f).resetPending = s.resetPending := rfl
@[simp] theorem State.setNZC_nmiPending (s : State) (f : AluResult) : (s.setNZC f).nmiPending = s.nmiPending := rfl
@[simp] theorem State.setNZC_irqPending (s : State) (f : AluResult) : (s.setNZC f).irqPending = s.irqPending := rfl
@[simp] theorem State.setNZC_started (s : State) (f : AluResult) : (s.setNZC f).started = s.started := rfl
@[simp] theorem State.setNZC_mem (s : State) (f : AluResult) : (s.setNZC f).mem = s.mem := rfl
@[simp] theorem State.setNZC_oracle (s : State) (f : AluResult) : (s.setNZC f).oracle = s.oracle := rfl
@[simp] theorem State.setNZC_params (s : State) (f : AluResult) : (s.setNZC f).params = s.params := rfl
@[simp] theorem State.setNZC_draws (s : State) (f : AluResult) : (s.setNZC f).draws = s.draws := rfl
@[simp] theorem State.setNZC_bus (s : State) (f : AluResult) : (s.setNZC f).bus = s.bus := rfl
@[simp] theorem State.setNZC_result (s : State) (f : AluResult) : (s.setNZC f).result = s.result := rfl

/-! ### setNVZC -/

@[simp] theorem State.setNVZC_a (s : State) (f : AluResult) : (s.setNVZC f).a = s.a := rfl
@[simp] theorem State.setNVZC_x (s : State) (f : AluResult) : (s.setNVZC f).x = s.x := rfl
@[simp] theorem State.setNVZC_y (s : State) (f : AluResult) : (s.setNVZC f).y = s.y := rfl
@[simp] theorem State.setNVZC_sp (s : State) (f : AluResult) : (s.setNVZC f).sp = s.sp := rfl
@[simp] theorem State.setNVZC_pc (s : State) (f : AluResult) : (s.setNVZC f).pc = s.pc := rfl
@[simp] theorem State.setNVZC_p (s : State) (f : AluResult) : (s.setNVZC f).p = putBit (putBit (putBit (putBit s.p 7 f.n) 6 f.v) 1 f.z) 0 f.c := rfl
@[simp] theorem State.setNVZC_resetPending (s : State) (f : AluResult) : (s.setNVZC f).resetPending = s.resetPending := rfl
@[simp] theorem State.setNVZC_nmiPending (s : State) (f : AluResult) : (s.setNVZC f).nmiPending = s.nmiPending := rfl
@[simp] theorem State.setNVZC_irqPending (s : State) (f : AluResult) : (s.setNVZC f).irqPending = s.irqPending := rfl
@[simp] theorem State.setNVZC_started (s : State) (f : AluResult) : (s.setNVZC f).started = s.started := rfl
@[simp] theorem State.setNVZC_mem (s : State) (f : AluResult) : (s.setNVZC f).mem = s.mem := rfl
@[simp] theorem State.setNVZC_oracle (s : State) (f : AluResult) : (s.setNVZC f).oracle = s.oracle := rfl
@[simp] theorem State.setNVZC_params (s : State) (f : AluResult) : (s.setNVZC f).params = s.params := rfl
@[simp] theorem State.setNVZC_draws (s : State) (f : AluResult) : (s.setNVZC f).draws = s.draws := rfl
@[simp] theorem State.setNVZC_bus (s : State) (f : AluResult) : (s.setNVZC f).bus = s.bus := rfl
@[simp] theorem State.setNVZC_result (s : State) (f : AluResult) : (s.setNVZC f).result = s.result := rfl

/-! ### logBus -/

@[simp] theorem State.logBus_a (s : State) (e : BusAccess) : (s.logBus e).a = s.a := rfl
@[simp] theorem State.logBus_x (s : State) (e : BusAccess) : (s.logBus e).x = s.x := rfl
@[simp] theorem State.logBus_y (s : State) (e : BusAccess) : (s.logBus e).y = s.y := rfl
@[simp] theorem State.logBus_sp (s : State) (e : BusAccess) : (s.logBus e).sp = s.sp := rfl
@[simp] theorem State.logBus_pc (s : State) (e : BusAccess) : (s.logBus e).pc = s.pc := rfl
@[simp] theorem State.logBus_p (s : State) (e : BusAccess) : (s.logBus e).p = s.p := rfl
@[simp] theorem State.logBus_resetPending (s : State) (e : BusAccess) : (s.logBus e).resetPending = s.resetPending := rfl
@[simp] theorem State.logBus_nmiPending (s : State) (e : BusAccess) : (s.logBus e).nmiPending = s.nmiPending := rfl
@[simp] theorem State.logBus_irqPending (s : State) (e : BusAccess) : (s.logBus e).irqPending = s.irqPending := rfl
@[simp] theorem State.logBus_started (s : State) (e : BusAccess) : (s.logBus e).started = s.started := rfl
@[simp] theorem State.logBus_mem (s : State) (e : BusAccess) : (s.logBus e).mem = s.mem := rfl
@[simp] theorem State.logBus_oracle (s : State) (e : BusAccess) : (s.logBus e).oracle = s.oracle := rfl
@[simp] theorem State.logBus_params (s : State) (e : BusAccess) : (s.logBus e).params = s.params := rfl
@[simp] theorem State.logBus_draws (s : State) (e : BusAccess) : (s.logBus e).draws = s.draws := rfl
@[simp] theorem State.logBus_bus (s : State) (e : BusAccess) : (s.logBus e).bus = s.bus ++ [e] := rfl
@[simp] theorem State.logBus_result (s : State) (e : BusAccess) : (s.logBus e).result = s.result := rfl

/-! ### draw -/

@[simp] theorem State.draw_a (s : State) : s.draw.2.a = s.a := rfl
@[simp] theorem State.draw_x (s : State) : s.draw.2.x = s.x := rfl
@[simp] theorem State.draw_y (s : State) : s.draw.2.y = s.y := rfl
@[simp] theorem State.draw_sp (s : State) : s.draw.2.sp = s.sp := rfl
@[simp] theorem State.draw_pc (s : State) : s.draw.2.pc = s.pc := rfl
@[simp] theorem State.draw_p (s : State) : s.draw.2.p = s.p := rfl
@[simp] theorem State.draw_resetPending (s : State) : s.draw.2.resetPending = s.resetPending := rfl
@[simp] theorem State.draw_nmiPending (s : State) : s.draw.2.nmiPending = s.nmiPending := rfl
@[simp] theorem State.draw_irqPending (s : State) : s.draw.2.irqPending = s.irqPending := rfl
@[simp] theorem State.draw_started (s : State) : s.draw.2.started = s.started := rfl
@[simp] theorem State.draw_mem (s : State) : s.draw.2.mem = s.mem := rfl
@[simp] theorem State.draw_oracle (s : State) : s.draw.2.oracle = s.oracle := rfl
@[simp] theorem State.draw_params (s : State) : s.draw.2.params = s.params := rfl
@[simp] theorem State.draw_draws (s : State) : s.draw.2.draws = s.draws + 1 := rfl
@[simp] theorem State.draw_bus (s : State) : s.draw.2.bus = s.bus := rfl
@[simp] theorem State.draw_result (s : State) : s.draw.2.result = s.result := rfl

/-! ### finish -/

@[simp] theorem State.finish_a (s : State) (n : Nat) : (s.finish n).a = s.a := rfl
@[simp] theorem State.finish_x (s : State) (n : Nat) : (s.finish n).x = s.x := rfl
@[simp] theorem State.finish_y (s : State) (n : Nat) : (s.finish n).y = s.y := rfl
@[simp] theorem State.finish_sp (s : State) (n : Nat) : (s.finish n).sp = s.sp := rfl
@[simp] theorem State.finish_pc (s : State) (n : Nat) : (s.finish n).pc = s.pc := rfl
@[simp] theorem State.finish_p (s : State) (n : Nat) : (s.finish n).p = s.p := rfl
@[simp] theorem State.finish_resetPending (s : State) (n : Nat) : (s.finish n).resetPending = s.resetPending := rfl
@[simp] theorem State.finish_nmiPending (s : State) (n : Nat) : (s.finish n).nmiPending = s.nmiPending := rfl
@[simp] theorem State.finish_irqPending (s : State) (n : Nat) : (s.finish n).irqPending = s.irqPending := rfl
@[simp] theorem State.finish_started (s : State) (n : Nat) : (s.finish n).started = s.started := rfl
@[simp] theorem State.finish_mem (s : State) (n : Nat) : (s.finish n).mem = s.mem := rfl
@[simp] theorem State.finish_oracle (s : State) (n : Nat) : (s.finish n).oracle = s.oracle := rfl
@[simp] theorem State.finish_params (s : State) (n : Nat) : (s.finish n).params = s.params := rfl
@[simp] theorem State.finish_draws (s : State) (n : Nat) : (s.finish n).draws = s.draws := rfl
@[simp] theorem State.finish_bus (s : State) (n : Nat) : (s.finish n).bus = s.bus := rfl
@[simp] theorem State.finish_result (s : State) (n : Nat) : (s.finish n).result = ⟨n, s.result.opcodeObserved, true⟩ := rfl

/-! ### beginTick -/

@[simp] theorem State.beginTick_a (s : State) : s.beginTick.a = s.a := rfl
@[simp] theorem State.beginTick_x (s : State) : s.beginTick.x = s.x := rfl
@[simp] theorem State.beginTick_y (s : State) : s.beginTick.y = s.y := rfl
@[simp] theorem State.beginTick_sp (s : State) : s.beginTick.sp = s.sp := rfl
@[simp] theorem State.beginTick_pc (s : State) : s.beginTick.pc = s.pc := rfl
@[simp] theorem State.beginTick_p (s : State) : s.beginTick.p = s.p := rfl
@[simp] theorem State.beginTick_resetPending (s : State) : s.beginTick.resetPending = s.resetPending := rfl
@[simp] theorem State.beginTick_nmiPending (s : State) : s.beginTick.nmiPending = s.nmiPending := rfl
@[simp] theorem State.beginTick_irqPending (s : State) : s.beginTick.irqPending = s.irqPending := rfl
@[simp] theorem State.beginTick_started (s : State) : s.beginTick.started = s.started := rfl
@[simp] theorem State.beginTick_mem (s : State) : s.beginTick.mem = s.mem := rfl
@[simp] theorem State.beginTick_oracle (s : State) : s.beginTick.oracle = s.oracle := rfl
@[simp] theorem State.beginTick_params (s : State) : s.beginTick.params = s.params := rfl
@[simp] theorem State.beginTick_draws (s : State) : s.beginTick.draws = s.draws := rfl
@[simp] theorem State.beginTick_bus (s : State) : s.beginTick.bus = [] := rfl
@[simp] theorem State.beginTick_result (s : State) : s.beginTick.result = s.result := rfl

/-! ### finishSequence -/

@[simp] theorem State.finishSequence_a (s : State) : s.finishSequence.a = s.a := rfl
@[simp] theorem State.finishSequence_x (s : State) : s.finishSequence.x = s.x := rfl
@[simp] theorem State.finishSequence_y (s : State) : s.finishSequence.y = s.y := rfl
@[simp] theorem State.finishSequence_sp (s : State) : s.finishSequence.sp = s.sp := rfl
@[simp] theorem State.finishSequence_pc (s : State) : s.finishSequence.pc = s.pc := rfl
@[simp] theorem State.finishSequence_p (s : State) : s.finishSequence.p = s.p := rfl
@[simp] theorem State.finishSequence_resetPending (s : State) : s.finishSequence.resetPending = s.resetPending := rfl
@[simp] theorem State.finishSequence_nmiPending (s : State) : s.finishSequence.nmiPending = s.nmiPending := rfl
@[simp] theorem State.finishSequence_irqPending (s : State) : s.finishSequence.irqPending = s.irqPending := rfl
@[simp] theorem State.finishSequence_started (s : State) : s.finishSequence.started = s.started := rfl
@[simp] theorem State.finishSequence_mem (s : State) : s.finishSequence.mem = s.mem := rfl
@[simp] theorem State.finishSequence_oracle (s : State) : s.finishSequence.oracle = s.oracle := rfl
@[simp] theorem State.finishSequence_params (s : State) : s.finishSequence.params = s.params := rfl
@[simp] theorem State.finishSequence_draws (s : State) : s.finishSequence.draws = s.draws + 1 := rfl
@[simp] theorem State.finishSequence_bus (s : State) : s.finishSequence.bus = s.bus := rfl
@[simp] theorem State.finishSequence_result (s : State) : s.finishSequence.result = ⟨sequenceCycles, Config.freeByte s.draws, true⟩ := rfl

@[simp] theorem State.draw_value (s : State) : s.draw.1 = Config.freeByte s.draws := rfl

end Sys2Proof.Machine
end

