-- ==== Sys2Proof/Laws/Flags.lean ====
section
/-!
SUPPORT. The status register: what replacing one bit does, what a pushed copy and a pulled byte hold, and the flags after each
named flag update.
-/

namespace Sys2Proof.Machine

/-- Replacing bit `k` of a status byte gives that bit and keeps every other. -/
@[simp] theorem getLsbD_putBit (p : Byte) (k j : Nat) (b : Bool) :
    (putBit p k b).getLsbD j = if j = k ∧ k < 8 then b else p.getLsbD j := by
  by_cases hj : j < 8
  · by_cases hk : j = k
    · subst hk
      cases b <;> simp [putBit, hj]
    · have hbit : j < k ∨ ¬j - k = 0 := by omega
      have hsub : k ≤ j → j - k ≠ 0 := by omega
      cases b
      · simpa [putBit, hk, hj] using fun _ => hbit
      · simpa [putBit, hk, hj] using fun h h0 => absurd h0 (hsub h)
  · have hlen (v : Byte) : v.getLsbD j = false := BitVec.getLsbD_of_ge v j (by omega)
    have : ¬(j = k ∧ k < 8) := by omega
    simp only [hlen, if_neg this]

@[simp] theorem getElem_putBit (p : Byte) (k j : Nat) (b : Bool) (h : j < 8) :
    (putBit p k b)[j] = if j = k then b else p[j] := by
  rw [← BitVec.getLsbD_eq_getElem, ← BitVec.getLsbD_eq_getElem, getLsbD_putBit]
  by_cases hk : j = k
  · simp [hk, hk ▸ h]
  · simp [hk]

theorem Flag.bit_lt (f : Flag) : f.bit < 8 := by cases f <;> decide

theorem Flag.bit_injective {f g : Flag} (h : f.bit = g.bit) : f = g := by
  cases f <;> cases g <;> first | rfl | exact absurd h (by decide)

@[simp] theorem flagOf_putBit (p : Byte) (f g : Flag) (b : Bool) :
    flagOf (putBit p f.bit b) g = if g = f then b else flagOf p g := by
  simp only [flagOf, getLsbD_putBit]
  by_cases h : g = f
  · simp [h, f.bit_lt]
  · rw [if_neg h, if_neg fun hb => h (Flag.bit_injective hb.1)]

/-- `SetNZ` and the others as what one flag reads after them. -/
@[simp] theorem State.setFlag_flag (s : State) (f g : Flag) (b : Bool) :
    (s.setFlag f b).flag g = if g = f then b else s.flag g :=
  flagOf_putBit s.p f g b

@[simp] theorem State.setNZ_flag (s : State) (r : Byte) (g : Flag) :
    (s.setNZ r).flag g = if g = .z then r == 0#8 else if g = .n then r.getLsbD 7 else s.flag g := by
  simp only [State.setNZ, State.setFlag_flag]

@[simp] theorem State.setNZC_flag (s : State) (f : AluResult) (g : Flag) :
    (s.setNZC f).flag g = if g = .c then f.c else if g = .z then f.z else if g = .n then f.n else s.flag g := by
  simp only [State.setNZC, State.setFlag_flag]

@[simp] theorem State.setNVZC_flag (s : State) (f : AluResult) (g : Flag) :
    (s.setNVZC f).flag g =
      if g = .c then f.c else if g = .z then f.z else if g = .v then f.v else if g = .n then f.n else s.flag g := by
  simp only [State.setNVZC, State.setFlag_flag]

/-- A pulled byte as live P: its six flags, bit 5 set, bit 4 clear (10_state.md R57). -/
@[simp] theorem flagOf_normP (v : Byte) (f : Flag) : flagOf (normP v) f = flagOf v f := by
  cases f <;> simp [flagOf, normP, Flag.bit]

@[simp] theorem normP_bit5 (v : Byte) : (normP v).getLsbD 5 = true := by
  simp [normP]

@[simp] theorem normP_bit4 (v : Byte) : (normP v).getLsbD 4 = false := by
  simp [normP]

@[simp] theorem normP_getElem4 (v : Byte) (h : 4 < 8) : (normP v)[4] = false := normP_bit4 v

/-- A pushed copy as bits (10_state.md R56). -/
theorem pushedP_eq (p : Byte) (b : Bool) : pushedP p b = putBit (putBit p 5 true) 4 b := by
  have h : ∀ (p : Byte) (b : Bool), pushedP p b = putBit (putBit p 5 true) 4 b := by decide +kernel
  exact h p b

@[simp] theorem flagOf_pushedP (p : Byte) (b : Bool) (f : Flag) : flagOf (pushedP p b) f = flagOf p f := by
  rw [pushedP_eq]
  cases f <;> simp [flagOf, Flag.bit]

/-- Live P pulled back from a pushed copy of itself is unchanged (10_state.md R56, R57, R63). -/
theorem normP_pushedP {p : Byte} (b : Bool) (h5 : p.getLsbD 5 = true) (h4 : p.getLsbD 4 = false) :
    normP (pushedP p b) = p := by
  revert p b
  decide +kernel

/-! ## The ALU as numbers -/

theorem loNibble_eq (v : Byte) : loNibble v = v.toNat % 16 := by
  revert v
  decide +kernel

theorem hiNibble_eq (v : Byte) : hiNibble v = v.toNat / 16 := by
  revert v
  decide +kernel

theorem getLsbD_seven (v : Byte) : v.getLsbD 7 = decide (128 ≤ v.toNat) := by
  revert v
  decide +kernel

theorem toInt_eq_toNat (v : Byte) : v.toInt = (v.toNat : Int) - if v.getLsbD 7 then 256 else 0 := by
  revert v
  decide +kernel

theorem and_signBit (v : Byte) : (v &&& 0x80#8 != 0#8) = v.getLsbD 7 := by
  revert v
  decide +kernel

/-- V of ADD: operands of one sign, result of the other (41_alu.md R178). -/
theorem aluAdd_v (a b : Byte) (c : Bool) :
    (aluAdd a b c).v = (a.getLsbD 7 == b.getLsbD 7 && a.getLsbD 7 != (aluAdd a b c).r.getLsbD 7) := by
  simp only [aluAdd, and_signBit, BitVec.getLsbD_and, BitVec.getLsbD_not, BitVec.getLsbD_xor]
  cases a.getLsbD 7 <;> cases b.getLsbD 7 <;> simp

theorem aluAdd_r_toNat (a b : Byte) (c : Bool) : (aluAdd a b c).r.toNat = (a.toNat + b.toNat + c.toNat) % 256 := by
  simp [aluAdd]

/-- The digits of decimal ADD as a number (41_alu.md R180). -/
theorem decimalAdd_toNat (a b : Byte) (c : Bool) :
    (decimalAdd a b c).1.toNat =
      (if hiNibble a + hiNibble b + decimalAddHc a b c > 9 then hiNibble a + hiNibble b + decimalAddHc a b c + 6
        else hiNibble a + hiNibble b + decimalAddHc a b c) % 16 * 16 + decimalAddLo a b c % 16 := by
  simp only [decimalAdd, BitVec.toNat_ofNat]
  omega

/-- The digits of decimal SUB as a number (41_alu.md R181). -/
theorem decimalSub_toNat (a b : Byte) (c : Bool) :
    ((decimalSub a b c).toNat : Int) =
      let low : Int := (loNibble a : Int) - loNibble b - (1 - c.toNat)
      let high : Int := (hiNibble a : Int) - hiNibble b - if low < 0 then 1 else 0
      (if high < 0 then high - 6 else high) % 16 * 16 + (if low < 0 then low - 6 else low) % 16 := by
  have key : ∀ x y : Int, (((BitVec.ofNat 8 ((x % 16).toNat * 16 + (y % 16).toNat)).toNat : Nat) : Int) =
      x % 16 * 16 + y % 16 := by
    intro x y
    rw [BitVec.toNat_ofNat]
    omega
  simp only [decimalSub, key]
  split <;> simp

end Sys2Proof.Machine
end

