-- ==== Sys2Proof/Laws/Memory.lean ====
section
/-!
SUPPORT. The laws of plain memory: a read after a write, and the canonical form, which every operation keeps and which makes
equal memories equal data.
-/

namespace Sys2Proof.Machine

@[simp] theorem Memory.peek_nil (a : Nat) : Memory.peek [] a = 0#8 := rfl

theorem Memory.peek_cons (k : Nat) (b : Byte) (t : Memory) (a : Nat) :
    Memory.peek ((k, b) :: t) a = if k = a then b else Memory.peek t a := rfl

/-- Memory canonical from `lo` on lists nothing below `lo`. -/
theorem Memory.peek_below {m : Memory} {lo a : Nat} (h : Memory.wfFrom lo m = true) (ha : a < lo) : m.peek a = 0#8 := by
  induction m generalizing lo with
  | nil => rfl
  | cons c t ih =>
    obtain ⟨k, b⟩ := c
    simp only [Memory.wfFrom, Bool.and_eq_true, decide_eq_true_eq] at h
    rw [Memory.peek_cons, if_neg (by omega)]
    exact ih h.2 (by omega)

theorem Memory.wfFrom_mono {m : Memory} {lo lo' : Nat} (h : Memory.wfFrom lo m = true) (hl : lo' ≤ lo) :
    Memory.wfFrom lo' m = true := by
  cases m with
  | nil => rfl
  | cons c t =>
    obtain ⟨k, b⟩ := c
    simp only [Memory.wfFrom, Bool.and_eq_true, decide_eq_true_eq] at h ⊢
    exact ⟨⟨⟨by omega, h.1.1.2⟩, h.1.2⟩, h.2⟩

theorem Memory.put_wfFrom {m : Memory} {lo a : Nat} {v : Byte} (h : Memory.wfFrom lo m = true) (hl : lo ≤ a)
    (ha : a < 65536) : Memory.wfFrom lo (m.put a v) = true := by
  induction m generalizing lo with
  | nil =>
    by_cases hv : v = 0#8
    · simp [Memory.put, hv, Memory.wfFrom]
    · simp [Memory.put, hv, Memory.wfFrom, hl, ha]
  | cons c t ih =>
    obtain ⟨k, b⟩ := c
    simp only [Memory.wfFrom, Bool.and_eq_true, decide_eq_true_eq] at h
    obtain ⟨⟨⟨hk, hk'⟩, hb⟩, ht⟩ := h
    simp only [Memory.put]
    split
    · split
      · simp [Memory.wfFrom, hk, hk', hb, ht]
      · simp_all [Memory.wfFrom]
    · split
      · subst a
        split
        · exact Memory.wfFrom_mono ht (by omega)
        · simp_all [Memory.wfFrom]
      · simp only [Memory.wfFrom, Bool.and_eq_true, decide_eq_true_eq]
        exact ⟨⟨⟨hk, hk'⟩, hb⟩, ih ht (by omega)⟩

/-- A write keeps the canonical form. -/
theorem Memory.put_wf {m : Memory} {a : Nat} {v : Byte} (h : m.wf = true) (ha : a < 65536) : (m.put a v).wf = true :=
  Memory.put_wfFrom h (Nat.zero_le a) ha

theorem Memory.peek_putFrom {m : Memory} {lo : Nat} (h : Memory.wfFrom lo m = true) (a : Nat) (v : Byte) (k : Nat) :
    (m.put a v).peek k = if k = a then v else m.peek k := by
  induction m generalizing lo with
  | nil =>
    by_cases hv : v = 0#8
    · simp [Memory.put, hv]
    · by_cases hk : k = a
      · simp [Memory.put, hv, Memory.peek, hk]
      · simp [Memory.put, hv, Memory.peek, hk, Ne.symm hk]
  | cons c t ih =>
    obtain ⟨j, b⟩ := c
    have h' := h
    simp only [Memory.wfFrom, Bool.and_eq_true, decide_eq_true_eq] at h'
    simp only [Memory.put]
    split
    · rename_i haj
      have hbelow : Memory.peek ((j, b) :: t) a = 0#8 :=
        Memory.peek_below (Memory.wfFrom_mono (lo' := j) (by simp_all [Memory.wfFrom]) (le_refl j)) haj
      split
      · by_cases hk : k = a
        · simp_all
        · simp [hk]
      · by_cases hk : k = a
        · simp [hk, Memory.peek]
        · simp [hk, Memory.peek, Ne.symm hk]
    · split
      · rename_i hne haj
        subst haj
        split
        · by_cases hk : k = a
          · simp_all [Memory.peek_below h'.2 (Nat.lt_succ_self a)]
          · simp [hk, Memory.peek, Ne.symm hk]
        · by_cases hk : k = a
          · simp [hk, Memory.peek]
          · simp [hk, Memory.peek, Ne.symm hk]
      · rename_i h1 h2
        by_cases hj : j = k
        · simp [Memory.peek, hj]
          omega
        · simp only [Memory.peek, if_neg hj]
          exact ih h'.2

/-- A read after a write, in canonical memory: the written byte at its address, every other byte as before. -/
theorem Memory.peek_put {m : Memory} (h : m.wf = true) (a : Nat) (v : Byte) (k : Nat) :
    (m.put a v).peek k = if k = a then v else m.peek k :=
  Memory.peek_putFrom h a v k

/-- A write changes no byte but its own, in any memory. -/
theorem Memory.peek_put_ne (m : Memory) {a k : Nat} (hk : k ≠ a) (v : Byte) : (m.put a v).peek k = m.peek k := by
  induction m with
  | nil => by_cases hv : v = 0#8 <;> simp [Memory.put, hv, Memory.peek, Ne.symm hk]
  | cons c t ih =>
    obtain ⟨j, b⟩ := c
    simp only [Memory.put]
    split
    · split <;> simp [Memory.peek, Ne.symm hk]
    · split
      · rename_i haj
        split <;> simp [Memory.peek, ← haj, Ne.symm hk]
      · simp [Memory.peek, ih]

theorem Memory.eq_of_peekFrom {m m' : Memory} {lo : Nat} (h : Memory.wfFrom lo m = true) (h' : Memory.wfFrom lo m' = true)
    (e : ∀ k, m.peek k = m'.peek k) : m = m' := by
  induction m generalizing lo m' with
  | nil =>
    cases m' with
    | nil => rfl
    | cons c t =>
      obtain ⟨k, b⟩ := c
      have := e k
      simp_all [Memory.wfFrom, Memory.peek]
  | cons c t ih =>
    obtain ⟨k, b⟩ := c
    cases m' with
    | nil =>
      have := e k
      simp_all [Memory.wfFrom, Memory.peek]
    | cons c' t' =>
      obtain ⟨k', b'⟩ := c'
      simp only [Memory.wfFrom, Bool.and_eq_true, decide_eq_true_eq, bne_iff_ne, ne_eq] at h h'
      have hk : k = k' := by
        rcases Nat.lt_trichotomy k k' with hlt | heq | hgt
        · have := e k
          rw [Memory.peek_cons, if_pos rfl, Memory.peek_cons, if_neg (by omega), Memory.peek_below h'.2 (by omega)] at this
          exact absurd this h.1.2
        · exact heq
        · have := e k'
          rw [Memory.peek_cons, if_neg (by omega), Memory.peek_below h.2 (by omega), Memory.peek_cons, if_pos rfl] at this
          exact absurd this.symm h'.1.2
      subst hk
      have hb : b = b' := by simpa [Memory.peek] using e k
      subst hb
      rw [ih h.2 h'.2 fun j => ?_]
      by_cases hj : j ≤ k
      · rw [Memory.peek_below h.2 (by omega), Memory.peek_below h'.2 (by omega)]
      · have := e j
        rwa [Memory.peek_cons, if_neg (by omega), Memory.peek_cons, if_neg (by omega)] at this

/-- Canonical memories that read alike are the same data. -/
theorem Memory.eq_of_peek {m m' : Memory} (h : m.wf = true) (h' : m'.wf = true) (e : ∀ k, m.peek k = m'.peek k) :
    m = m' :=
  Memory.eq_of_peekFrom h h' e

end Sys2Proof.Machine
end

