-- ==== Sys2Proof/Laws/Ops.lean ====
section
/-!
SUPPORT. The shared operations over bus, registers, stack and exceptions: what each changes, once, so that no later proof
unfolds one. Fields an operation leaves alone come as simp lemmas; the rest as one equation each.
-/

namespace Sys2Proof.Machine

@[simp] theorem State.flag_mk (a x y sp : Byte) (pc : Word) (p : Byte) (rp np ip st : Bool) (m : Memory) (o : List Region)
    (pr : Params) (d : Nat) (bus : List BusAccess) (res : TickResult) (f : Flag) :
    (State.mk a x y sp pc p rp np ip st m o pr d bus res).flag f = flagOf p f := rfl

theorem State.plain_mk (a x y sp : Byte) (pc : Word) (p : Byte) (rp np ip st : Bool) (m : Memory) (o : List Region)
    (pr : Params) (d : Nat) (bus : List BusAccess) (res : TickResult) (k : Word) :
    (State.mk a x y sp pc p rp np ip st m o pr d bus res).plain k = !(o.any fun r => r.holds k.toNat) := rfl

/-- The declaration of plain memory depends on the oracle regions alone. -/
theorem State.plain_def (s : State) (k : Word) : s.plain k = !(s.oracle.any fun r => r.holds k.toNat) := rfl

/-- A state with no oracle region has plain memory everywhere. -/
theorem State.plain_of_oracle_nil {s : State} (h : s.oracle = []) (k : Word) : s.plain k = true := by
  simp [State.plain, h]

@[simp] theorem State.logBus_flag (s : State) (e : BusAccess) (f : Flag) : (s.logBus e).flag f = s.flag f := rfl
@[simp] theorem State.finish_flag (s : State) (n : Nat) (f : Flag) : (s.finish n).flag f = s.flag f := rfl
@[simp] theorem State.draw_flag (s : State) (f : Flag) : (s.draw.2).flag f = s.flag f := rfl
@[simp] theorem State.beginTick_flag (s : State) (f : Flag) : (s.beginTick).flag f = s.flag f := rfl
@[simp] theorem State.finishSequence_flag (s : State) (f : Flag) : (s.finishSequence).flag f = s.flag f := rfl
@[simp] theorem State.logBus_plain (s : State) (e : BusAccess) (k : Word) : (s.logBus e).plain k = s.plain k := rfl
@[simp] theorem State.finish_plain (s : State) (n : Nat) (k : Word) : (s.finish n).plain k = s.plain k := rfl
@[simp] theorem State.draw_plain (s : State) (k : Word) : (s.draw.2).plain k = s.plain k := rfl
@[simp] theorem State.beginTick_plain (s : State) (k : Word) : (s.beginTick).plain k = s.plain k := rfl
@[simp] theorem State.finishSequence_plain (s : State) (k : Word) : (s.finishSequence).plain k = s.plain k := rfl
@[simp] theorem State.setFlag_plain (s : State) (f : Flag) (b : Bool) (k : Word) : (s.setFlag f b).plain k = s.plain k := rfl
@[simp] theorem State.setNZ_plain (s : State) (r : Byte) (k : Word) : (s.setNZ r).plain k = s.plain k := rfl
@[simp] theorem State.setNZC_plain (s : State) (r : AluResult) (k : Word) : (s.setNZC r).plain k = s.plain k := rfl
@[simp] theorem State.setNVZC_plain (s : State) (r : AluResult) (k : Word) : (s.setNVZC r).plain k = s.plain k := rfl

/-! ### memRead -/

@[simp] theorem State.memRead_a (s : State) (k : Word) : ((s.memRead k).2).a = s.a := by
  unfold State.memRead; split <;> rfl
@[simp] theorem State.memRead_x (s : State) (k : Word) : ((s.memRead k).2).x = s.x := by
  unfold State.memRead; split <;> rfl
@[simp] theorem State.memRead_y (s : State) (k : Word) : ((s.memRead k).2).y = s.y := by
  unfold State.memRead; split <;> rfl
@[simp] theorem State.memRead_sp (s : State) (k : Word) : ((s.memRead k).2).sp = s.sp := by
  unfold State.memRead; split <;> rfl
@[simp] theorem State.memRead_pc (s : State) (k : Word) : ((s.memRead k).2).pc = s.pc := by
  unfold State.memRead; split <;> rfl
@[simp] theorem State.memRead_p (s : State) (k : Word) : ((s.memRead k).2).p = s.p := by
  unfold State.memRead; split <;> rfl
@[simp] theorem State.memRead_resetPending (s : State) (k : Word) : ((s.memRead k).2).resetPending = s.resetPending := by
  unfold State.memRead; split <;> rfl
@[simp] theorem State.memRead_nmiPending (s : State) (k : Word) : ((s.memRead k).2).nmiPending = s.nmiPending := by
  unfold State.memRead; split <;> rfl
@[simp] theorem State.memRead_irqPending (s : State) (k : Word) : ((s.memRead k).2).irqPending = s.irqPending := by
  unfold State.memRead; split <;> rfl
@[simp] theorem State.memRead_started (s : State) (k : Word) : ((s.memRead k).2).started = s.started := by
  unfold State.memRead; split <;> rfl
@[simp] theorem State.memRead_mem (s : State) (k : Word) : ((s.memRead k).2).mem = s.mem := by
  unfold State.memRead; split <;> rfl
@[simp] theorem State.memRead_oracle (s : State) (k : Word) : ((s.memRead k).2).oracle = s.oracle := by
  unfold State.memRead; split <;> rfl
@[simp] theorem State.memRead_params (s : State) (k : Word) : ((s.memRead k).2).params = s.params := by
  unfold State.memRead; split <;> rfl
@[simp] theorem State.memRead_result (s : State) (k : Word) : ((s.memRead k).2).result = s.result := by
  unfold State.memRead; split <;> rfl
@[simp] theorem State.memRead_flag (s : State) (k : Word) (f : Flag) : ((s.memRead k).2).flag f = s.flag f := by
  simp only [State.flag, State.memRead_p]
@[simp] theorem State.memRead_plain (s : State) (k : Word) (j : Word) : ((s.memRead k).2).plain j = s.plain j := by
  simp only [State.plain, State.memRead_oracle]

/-- A read of plain memory: the byte memory holds, and one access (20_memory.md R82, R101). -/
theorem State.memRead_of_plain {s : State} {k : Word} (h : s.plain k = true) :
    s.memRead k = (s.mem.peek k.toNat, s.logBus (.read k (s.mem.peek k.toNat))) := by
  simp [State.memRead, h]

/-- A read elsewhere: the next free value, and one access (20_memory.md R82, R101). -/
theorem State.memRead_of_oracle {s : State} {k : Word} (h : s.plain k = false) :
    s.memRead k = (Config.freeByte s.draws, { s with draws := s.draws + 1, bus := s.bus ++ [.read k (Config.freeByte s.draws)] }) := by
  simp [State.memRead, h, State.draw, State.logBus]

/-- What a read gives depends on memory, the declared regions and the next free value alone. -/
theorem State.memRead_value_congr {s t : State} (hm : s.mem = t.mem) (ho : s.oracle = t.oracle) (hd : s.draws = t.draws)
    (k : Word) : (s.memRead k).1 = (t.memRead k).1 := by
  have hp : s.plain k = t.plain k := by simp only [State.plain, ho]
  by_cases h : t.plain k = true
  · rw [State.memRead_of_plain h, State.memRead_of_plain (hp.trans h), hm]
  · have h' : t.plain k = false := by simpa using h
    rw [State.memRead_of_oracle h', State.memRead_of_oracle (hp.trans h'), hd]

@[simp] theorem State.memRead_bus (s : State) (k : Word) : (s.memRead k).2.bus = s.bus ++ [.read k (s.memRead k).1] := by
  unfold State.memRead; split <;> rfl


/-! ### memWrite -/

@[simp] theorem State.memWrite_a (s : State) (k : Word) (v : Byte) : (s.memWrite k v).a = s.a := by
  unfold State.memWrite; split <;> rfl
@[simp] theorem State.memWrite_x (s : State) (k : Word) (v : Byte) : (s.memWrite k v).x = s.x := by
  unfold State.memWrite; split <;> rfl
@[simp] theorem State.memWrite_y (s : State) (k : Word) (v : Byte) : (s.memWrite k v).y = s.y := by
  unfold State.memWrite; split <;> rfl
@[simp] theorem State.memWrite_sp (s : State) (k : Word) (v : Byte) : (s.memWrite k v).sp = s.sp := by
  unfold State.memWrite; split <;> rfl
@[simp] theorem State.memWrite_pc (s : State) (k : Word) (v : Byte) : (s.memWrite k v).pc = s.pc := by
  unfold State.memWrite; split <;> rfl
@[simp] theorem State.memWrite_p (s : State) (k : Word) (v : Byte) : (s.memWrite k v).p = s.p := by
  unfold State.memWrite; split <;> rfl
@[simp] theorem State.memWrite_resetPending (s : State) (k : Word) (v : Byte) : (s.memWrite k v).resetPending = s.resetPending := by
  unfold State.memWrite; split <;> rfl
@[simp] theorem State.memWrite_nmiPending (s : State) (k : Word) (v : Byte) : (s.memWrite k v).nmiPending = s.nmiPending := by
  unfold State.memWrite; split <;> rfl
@[simp] theorem State.memWrite_irqPending (s : State) (k : Word) (v : Byte) : (s.memWrite k v).irqPending = s.irqPending := by
  unfold State.memWrite; split <;> rfl
@[simp] theorem State.memWrite_started (s : State) (k : Word) (v : Byte) : (s.memWrite k v).started = s.started := by
  unfold State.memWrite; split <;> rfl
@[simp] theorem State.memWrite_oracle (s : State) (k : Word) (v : Byte) : (s.memWrite k v).oracle = s.oracle := by
  unfold State.memWrite; split <;> rfl
@[simp] theorem State.memWrite_params (s : State) (k : Word) (v : Byte) : (s.memWrite k v).params = s.params := by
  unfold State.memWrite; split <;> rfl
@[simp] theorem State.memWrite_draws (s : State) (k : Word) (v : Byte) : (s.memWrite k v).draws = s.draws := by
  unfold State.memWrite; split <;> rfl
@[simp] theorem State.memWrite_result (s : State) (k : Word) (v : Byte) : (s.memWrite k v).result = s.result := by
  unfold State.memWrite; split <;> rfl
@[simp] theorem State.memWrite_flag (s : State) (k : Word) (v : Byte) (f : Flag) : (s.memWrite k v).flag f = s.flag f := by
  simp only [State.flag, State.memWrite_p]
@[simp] theorem State.memWrite_plain (s : State) (k : Word) (v : Byte) (j : Word) : (s.memWrite k v).plain j = s.plain j := by
  simp only [State.plain, State.memWrite_oracle]

@[simp] theorem State.memWrite_bus (s : State) (k : Word) (v : Byte) : (s.memWrite k v).bus = s.bus ++ [.write k v] := by
  unfold State.memWrite; split <;> rfl

theorem State.memWrite_mem (s : State) (k : Word) (v : Byte) :
    (s.memWrite k v).mem = if s.plain k then s.mem.put k.toNat v else s.mem := by
  unfold State.memWrite; split <;> rfl

theorem State.memWrite_wf {s : State} (h : s.mem.wf = true) (k : Word) (v : Byte) : (s.memWrite k v).mem.wf = true := by
  rw [State.memWrite_mem]
  split
  · exact Memory.put_wf h k.isLt
  · exact h

/-- A write changes no byte but its own. -/
theorem State.memWrite_peek_ne (s : State) {k : Word} (v : Byte) {j : Nat} (hj : j ≠ k.toNat) :
    (s.memWrite k v).mem.peek j = s.mem.peek j := by
  rw [State.memWrite_mem]
  split
  · exact Memory.peek_put_ne s.mem hj v
  · rfl

/-- A write of plain memory is read back (20_memory.md R101). -/
theorem State.memWrite_peek_same {s : State} {k : Word} (v : Byte) (h : s.mem.wf = true) (hp : s.plain k = true) :
    (s.memWrite k v).mem.peek k.toNat = v := by
  rw [State.memWrite_mem, if_pos hp, Memory.peek_put h, if_pos rfl]


/-! ### readWord and readWordZP -/

@[simp] theorem State.readWord_a (s : State) (k : Word) : ((s.readWord k).2).a = s.a := by
  simp [State.readWord]
@[simp] theorem State.readWord_x (s : State) (k : Word) : ((s.readWord k).2).x = s.x := by
  simp [State.readWord]
@[simp] theorem State.readWord_y (s : State) (k : Word) : ((s.readWord k).2).y = s.y := by
  simp [State.readWord]
@[simp] theorem State.readWord_sp (s : State) (k : Word) : ((s.readWord k).2).sp = s.sp := by
  simp [State.readWord]
@[simp] theorem State.readWord_pc (s : State) (k : Word) : ((s.readWord k).2).pc = s.pc := by
  simp [State.readWord]
@[simp] theorem State.readWord_p (s : State) (k : Word) : ((s.readWord k).2).p = s.p := by
  simp [State.readWord]
@[simp] theorem State.readWord_resetPending (s : State) (k : Word) : ((s.readWord k).2).resetPending = s.resetPending := by
  simp [State.readWord]
@[simp] theorem State.readWord_nmiPending (s : State) (k : Word) : ((s.readWord k).2).nmiPending = s.nmiPending := by
  simp [State.readWord]
@[simp] theorem State.readWord_irqPending (s : State) (k : Word) : ((s.readWord k).2).irqPending = s.irqPending := by
  simp [State.readWord]
@[simp] theorem State.readWord_started (s : State) (k : Word) : ((s.readWord k).2).started = s.started := by
  simp [State.readWord]
@[simp] theorem State.readWord_mem (s : State) (k : Word) : ((s.readWord k).2).mem = s.mem := by
  simp [State.readWord]
@[simp] theorem State.readWord_oracle (s : State) (k : Word) : ((s.readWord k).2).oracle = s.oracle := by
  simp [State.readWord]
@[simp] theorem State.readWord_params (s : State) (k : Word) : ((s.readWord k).2).params = s.params := by
  simp [State.readWord]
@[simp] theorem State.readWord_result (s : State) (k : Word) : ((s.readWord k).2).result = s.result := by
  simp [State.readWord]
@[simp] theorem State.readWord_flag (s : State) (k : Word) (f : Flag) : ((s.readWord k).2).flag f = s.flag f := by
  simp only [State.flag, State.readWord_p]
@[simp] theorem State.readWord_plain (s : State) (k : Word) (j : Word) : ((s.readWord k).2).plain j = s.plain j := by
  simp only [State.plain, State.readWord_oracle]
@[simp] theorem State.readWordZP_a (s : State) (k : Byte) : ((s.readWordZP k).2).a = s.a := by
  simp [State.readWordZP]
@[simp] theorem State.readWordZP_x (s : State) (k : Byte) : ((s.readWordZP k).2).x = s.x := by
  simp [State.readWordZP]
@[simp] theorem State.readWordZP_y (s : State) (k : Byte) : ((s.readWordZP k).2).y = s.y := by
  simp [State.readWordZP]
@[simp] theorem State.readWordZP_sp (s : State) (k : Byte) : ((s.readWordZP k).2).sp = s.sp := by
  simp [State.readWordZP]
@[simp] theorem State.readWordZP_pc (s : State) (k : Byte) : ((s.readWordZP k).2).pc = s.pc := by
  simp [State.readWordZP]
@[simp] theorem State.readWordZP_p (s : State) (k : Byte) : ((s.readWordZP k).2).p = s.p := by
  simp [State.readWordZP]
@[simp] theorem State.readWordZP_resetPending (s : State) (k : Byte) : ((s.readWordZP k).2).resetPending = s.resetPending := by
  simp [State.readWordZP]
@[simp] theorem State.readWordZP_nmiPending (s : State) (k : Byte) : ((s.readWordZP k).2).nmiPending = s.nmiPending := by
  simp [State.readWordZP]
@[simp] theorem State.readWordZP_irqPending (s : State) (k : Byte) : ((s.readWordZP k).2).irqPending = s.irqPending := by
  simp [State.readWordZP]
@[simp] theorem State.readWordZP_started (s : State) (k : Byte) : ((s.readWordZP k).2).started = s.started := by
  simp [State.readWordZP]
@[simp] theorem State.readWordZP_mem (s : State) (k : Byte) : ((s.readWordZP k).2).mem = s.mem := by
  simp [State.readWordZP]
@[simp] theorem State.readWordZP_oracle (s : State) (k : Byte) : ((s.readWordZP k).2).oracle = s.oracle := by
  simp [State.readWordZP]
@[simp] theorem State.readWordZP_params (s : State) (k : Byte) : ((s.readWordZP k).2).params = s.params := by
  simp [State.readWordZP]
@[simp] theorem State.readWordZP_result (s : State) (k : Byte) : ((s.readWordZP k).2).result = s.result := by
  simp [State.readWordZP]
@[simp] theorem State.readWordZP_flag (s : State) (k : Byte) (f : Flag) : ((s.readWordZP k).2).flag f = s.flag f := by
  simp only [State.flag, State.readWordZP_p]
@[simp] theorem State.readWordZP_plain (s : State) (k : Byte) (j : Word) : ((s.readWordZP k).2).plain j = s.plain j := by
  simp only [State.plain, State.readWordZP_oracle]

theorem State.readWord_eq (s : State) (k : Word) :
    s.readWord k = (wordOf (s.memRead k).1 ((s.memRead k).2.memRead (k + 1#16)).1, ((s.memRead k).2.memRead (k + 1#16)).2) := rfl

theorem State.readWordZP_eq (s : State) (k : Byte) :
    s.readWordZP k =
      (wordOf (s.memRead (zext16 k)).1 ((s.memRead (zext16 k)).2.memRead (zext16 (k + 1#8))).1,
        ((s.memRead (zext16 k)).2.memRead (zext16 (k + 1#8))).2) := rfl

/-- A word of plain memory, low byte first (20_memory.md R86). -/
theorem State.readWord_of_plain {s : State} {k : Word} (h : s.plain k = true) (h' : s.plain (k + 1#16) = true) :
    s.readWord k =
      (wordOf (s.mem.peek k.toNat) (s.mem.peek (k + 1#16).toNat),
        { s with bus := s.bus ++ [.read k (s.mem.peek k.toNat), .read (k + 1#16) (s.mem.peek (k + 1#16).toNat)] }) := by
  have h2 : (s.logBus (.read k (s.mem.peek k.toNat))).plain (k + 1#16) = true := h'
  simp only [State.readWord, State.memRead_of_plain h, State.memRead_of_plain h2]
  simp [State.logBus]

/-- A pointer of page 0 in plain memory (20_memory.md R87). -/
theorem State.readWordZP_of_plain {s : State} {k : Byte} (h : s.plain (zext16 k) = true) (h' : s.plain (zext16 (k + 1#8)) = true) :
    s.readWordZP k =
      (wordOf (s.mem.peek (zext16 k).toNat) (s.mem.peek (zext16 (k + 1#8)).toNat),
        { s with bus := s.bus ++ [.read (zext16 k) (s.mem.peek (zext16 k).toNat),
            .read (zext16 (k + 1#8)) (s.mem.peek (zext16 (k + 1#8)).toNat)] }) := by
  have h2 : (s.logBus (.read (zext16 k) (s.mem.peek (zext16 k).toNat))).plain (zext16 (k + 1#8)) = true := h'
  simp only [State.readWordZP, State.memRead_of_plain h, State.memRead_of_plain h2]
  simp [State.logBus]


/-! ### fetchByte -/

@[simp] theorem State.fetchByte_a (s : State) : (s.fetchByte.2).a = s.a := by
  simp [State.fetchByte]
@[simp] theorem State.fetchByte_x (s : State) : (s.fetchByte.2).x = s.x := by
  simp [State.fetchByte]
@[simp] theorem State.fetchByte_y (s : State) : (s.fetchByte.2).y = s.y := by
  simp [State.fetchByte]
@[simp] theorem State.fetchByte_sp (s : State) : (s.fetchByte.2).sp = s.sp := by
  simp [State.fetchByte]
@[simp] theorem State.fetchByte_p (s : State) : (s.fetchByte.2).p = s.p := by
  simp [State.fetchByte]
@[simp] theorem State.fetchByte_resetPending (s : State) : (s.fetchByte.2).resetPending = s.resetPending := by
  simp [State.fetchByte]
@[simp] theorem State.fetchByte_nmiPending (s : State) : (s.fetchByte.2).nmiPending = s.nmiPending := by
  simp [State.fetchByte]
@[simp] theorem State.fetchByte_irqPending (s : State) : (s.fetchByte.2).irqPending = s.irqPending := by
  simp [State.fetchByte]
@[simp] theorem State.fetchByte_started (s : State) : (s.fetchByte.2).started = s.started := by
  simp [State.fetchByte]
@[simp] theorem State.fetchByte_mem (s : State) : (s.fetchByte.2).mem = s.mem := by
  simp [State.fetchByte]
@[simp] theorem State.fetchByte_oracle (s : State) : (s.fetchByte.2).oracle = s.oracle := by
  simp [State.fetchByte]
@[simp] theorem State.fetchByte_params (s : State) : (s.fetchByte.2).params = s.params := by
  simp [State.fetchByte]
@[simp] theorem State.fetchByte_result (s : State) : (s.fetchByte.2).result = s.result := by
  simp [State.fetchByte]
@[simp] theorem State.fetchByte_flag (s : State) (f : Flag) : (s.fetchByte.2).flag f = s.flag f := by
  simp only [State.flag, State.fetchByte_p]
@[simp] theorem State.fetchByte_plain (s : State) (j : Word) : (s.fetchByte.2).plain j = s.plain j := by
  simp only [State.plain, State.fetchByte_oracle]
@[simp] theorem State.fetchByte_pc (s : State) : s.fetchByte.2.pc = s.pc + 1#16 := by
  simp [State.fetchByte]

/-- A fetch from plain memory (30_encoding.md R113). -/
theorem State.fetchByte_of_plain {s : State} (h : s.plain s.pc = true) :
    s.fetchByte =
      (s.mem.peek s.pc.toNat, { s with pc := s.pc + 1#16, bus := s.bus ++ [.read s.pc (s.mem.peek s.pc.toNat)] }) := by
  simp [State.fetchByte, State.memRead_of_plain h, State.logBus]


/-! ### push and pull -/

@[simp] theorem State.push_a (s : State) (v : Byte) : (s.push v).a = s.a := by
  simp [State.push]
@[simp] theorem State.push_x (s : State) (v : Byte) : (s.push v).x = s.x := by
  simp [State.push]
@[simp] theorem State.push_y (s : State) (v : Byte) : (s.push v).y = s.y := by
  simp [State.push]
@[simp] theorem State.push_pc (s : State) (v : Byte) : (s.push v).pc = s.pc := by
  simp [State.push]
@[simp] theorem State.push_p (s : State) (v : Byte) : (s.push v).p = s.p := by
  simp [State.push]
@[simp] theorem State.push_resetPending (s : State) (v : Byte) : (s.push v).resetPending = s.resetPending := by
  simp [State.push]
@[simp] theorem State.push_nmiPending (s : State) (v : Byte) : (s.push v).nmiPending = s.nmiPending := by
  simp [State.push]
@[simp] theorem State.push_irqPending (s : State) (v : Byte) : (s.push v).irqPending = s.irqPending := by
  simp [State.push]
@[simp] theorem State.push_started (s : State) (v : Byte) : (s.push v).started = s.started := by
  simp [State.push]
@[simp] theorem State.push_oracle (s : State) (v : Byte) : (s.push v).oracle = s.oracle := by
  simp [State.push]
@[simp] theorem State.push_params (s : State) (v : Byte) : (s.push v).params = s.params := by
  simp [State.push]
@[simp] theorem State.push_draws (s : State) (v : Byte) : (s.push v).draws = s.draws := by
  simp [State.push]
@[simp] theorem State.push_result (s : State) (v : Byte) : (s.push v).result = s.result := by
  simp [State.push]
@[simp] theorem State.push_flag (s : State) (v : Byte) (f : Flag) : (s.push v).flag f = s.flag f := by
  simp only [State.flag, State.push_p]
@[simp] theorem State.push_plain (s : State) (v : Byte) (j : Word) : (s.push v).plain j = s.plain j := by
  simp only [State.plain, State.push_oracle]
@[simp] theorem State.push_sp (s : State) (v : Byte) : (s.push v).sp = s.sp - 1#8 := by
  simp [State.push]

@[simp] theorem State.push_bus (s : State) (v : Byte) : (s.push v).bus = s.bus ++ [.write (stackAddr s.sp) v] := by
  simp [State.push]

/-- A push stores at the stack address of the old SP (20_memory.md R92). -/
theorem State.push_mem (s : State) (v : Byte) : (s.push v).mem = (s.memWrite (stackAddr s.sp) v).mem := rfl

theorem State.push_wf {s : State} (h : s.mem.wf = true) (v : Byte) : (s.push v).mem.wf = true :=
  State.memWrite_wf h _ v

theorem State.push_peek_ne (s : State) (v : Byte) {j : Nat} (hj : j ≠ (stackAddr s.sp).toNat) :
    (s.push v).mem.peek j = s.mem.peek j :=
  State.memWrite_peek_ne s v hj

theorem State.push_peek_same {s : State} (v : Byte) (h : s.mem.wf = true) (hp : s.plain (stackAddr s.sp) = true) :
    (s.push v).mem.peek (stackAddr s.sp).toNat = v :=
  State.memWrite_peek_same v h hp

@[simp] theorem State.pull_a (s : State) : (s.pull.2).a = s.a := by
  simp [State.pull]
@[simp] theorem State.pull_x (s : State) : (s.pull.2).x = s.x := by
  simp [State.pull]
@[simp] theorem State.pull_y (s : State) : (s.pull.2).y = s.y := by
  simp [State.pull]
@[simp] theorem State.pull_pc (s : State) : (s.pull.2).pc = s.pc := by
  simp [State.pull]
@[simp] theorem State.pull_p (s : State) : (s.pull.2).p = s.p := by
  simp [State.pull]
@[simp] theorem State.pull_resetPending (s : State) : (s.pull.2).resetPending = s.resetPending := by
  simp [State.pull]
@[simp] theorem State.pull_nmiPending (s : State) : (s.pull.2).nmiPending = s.nmiPending := by
  simp [State.pull]
@[simp] theorem State.pull_irqPending (s : State) : (s.pull.2).irqPending = s.irqPending := by
  simp [State.pull]
@[simp] theorem State.pull_started (s : State) : (s.pull.2).started = s.started := by
  simp [State.pull]
@[simp] theorem State.pull_mem (s : State) : (s.pull.2).mem = s.mem := by
  simp [State.pull]
@[simp] theorem State.pull_oracle (s : State) : (s.pull.2).oracle = s.oracle := by
  simp [State.pull]
@[simp] theorem State.pull_params (s : State) : (s.pull.2).params = s.params := by
  simp [State.pull]
@[simp] theorem State.pull_result (s : State) : (s.pull.2).result = s.result := by
  simp [State.pull]
@[simp] theorem State.pull_flag (s : State) (f : Flag) : (s.pull.2).flag f = s.flag f := by
  simp only [State.flag, State.pull_p]
@[simp] theorem State.pull_plain (s : State) (j : Word) : (s.pull.2).plain j = s.plain j := by
  simp only [State.plain, State.pull_oracle]
@[simp] theorem State.pull_sp (s : State) : s.pull.2.sp = s.sp + 1#8 := by
  simp [State.pull]

@[simp] theorem State.pull_bus (s : State) : s.pull.2.bus = s.bus ++ [.read (stackAddr (s.sp + 1#8)) s.pull.1] := by
  simp [State.pull]

/-- A pull from plain memory (20_memory.md R93). -/
theorem State.pull_of_plain {s : State} (h : s.plain (stackAddr (s.sp + 1#8)) = true) :
    s.pull.1 = s.mem.peek (stackAddr (s.sp + 1#8)).toNat := by
  have h2 : State.plain { s with sp := s.sp + 1#8 } (stackAddr (s.sp + 1#8)) = true := h
  simp only [State.pull, State.memRead_of_plain h2]

/-- Page 1 is the stack's (10_state.md R44): distinct stack pointers have distinct addresses. -/
theorem stackAddr_toNat (sp : Byte) : (stackAddr sp).toNat = 256 + sp.toNat := by
  have h : ∀ sp : Byte, (stackAddr sp).toNat = 256 + sp.toNat := by decide +kernel
  exact h sp

theorem stackAddr_ne {a b : Byte} (h : a ≠ b) : (stackAddr a).toNat ≠ (stackAddr b).toNat := by
  rw [stackAddr_toNat, stackAddr_toNat]
  exact fun e => h (BitVec.eq_of_toNat_eq (by omega))

/-- Two pushes store at SP and at SP - 1 (modulo 256). -/
theorem State.push_push_peek_ne (s : State) (u v : Byte) {j : Nat} (h : j ≠ (stackAddr s.sp).toNat)
    (h' : j ≠ (stackAddr (s.sp - 1#8)).toNat) : ((s.push u).push v).mem.peek j = s.mem.peek j := by
  rw [State.push_peek_ne _ _ (by simpa using h'), State.push_peek_ne _ _ h]

theorem State.push_push_peek_first {s : State} (u v : Byte) (h : s.mem.wf = true) (hp : s.plain (stackAddr s.sp) = true) :
    ((s.push u).push v).mem.peek (stackAddr s.sp).toNat = u := by
  rw [State.push_peek_ne _ _ (by rw [State.push_sp]; exact stackAddr_ne (by bv_omega)), State.push_peek_same _ h hp]

theorem State.push_push_peek_second {s : State} (u v : Byte) (h : s.mem.wf = true)
    (hp : s.plain (stackAddr (s.sp - 1#8)) = true) :
    ((s.push u).push v).mem.peek (stackAddr (s.sp - 1#8)).toNat = v := by
  have := State.push_peek_same (s := s.push u) v (State.push_wf h u) (by simpa using hp)
  simpa using this


/-! ### Taking an exception, and returning from one -/

@[simp] theorem State.pullP_a (s : State) : (s.pullP).a = s.a := by
  simp [State.pullP]
@[simp] theorem State.pullP_x (s : State) : (s.pullP).x = s.x := by
  simp [State.pullP]
@[simp] theorem State.pullP_y (s : State) : (s.pullP).y = s.y := by
  simp [State.pullP]
@[simp] theorem State.pullP_pc (s : State) : (s.pullP).pc = s.pc := by
  simp [State.pullP]
@[simp] theorem State.pullP_resetPending (s : State) : (s.pullP).resetPending = s.resetPending := by
  simp [State.pullP]
@[simp] theorem State.pullP_nmiPending (s : State) : (s.pullP).nmiPending = s.nmiPending := by
  simp [State.pullP]
@[simp] theorem State.pullP_irqPending (s : State) : (s.pullP).irqPending = s.irqPending := by
  simp [State.pullP]
@[simp] theorem State.pullP_started (s : State) : (s.pullP).started = s.started := by
  simp [State.pullP]
@[simp] theorem State.pullP_mem (s : State) : (s.pullP).mem = s.mem := by
  simp [State.pullP]
@[simp] theorem State.pullP_oracle (s : State) : (s.pullP).oracle = s.oracle := by
  simp [State.pullP]
@[simp] theorem State.pullP_params (s : State) : (s.pullP).params = s.params := by
  simp [State.pullP]
@[simp] theorem State.pullP_result (s : State) : (s.pullP).result = s.result := by
  simp [State.pullP]
@[simp] theorem State.pullP_plain (s : State) (j : Word) : (s.pullP).plain j = s.plain j := by
  simp only [State.plain, State.pullP_oracle]
@[simp] theorem State.pullP_sp (s : State) : s.pullP.sp = s.sp + 1#8 := by
  simp [State.pullP]

@[simp] theorem State.pullP_p (s : State) : s.pullP.p = normP s.pull.1 := rfl

@[simp] theorem State.pullP_bus (s : State) : s.pullP.bus = s.bus ++ [.read (stackAddr (s.sp + 1#8)) s.pull.1] := by
  simp [State.pullP]

@[simp] theorem State.interruptEntry_a (s : State) (b : Bool) (vec : Word) : (s.interruptEntry b vec).a = s.a := by
  simp [State.interruptEntry]
@[simp] theorem State.interruptEntry_x (s : State) (b : Bool) (vec : Word) : (s.interruptEntry b vec).x = s.x := by
  simp [State.interruptEntry]
@[simp] theorem State.interruptEntry_y (s : State) (b : Bool) (vec : Word) : (s.interruptEntry b vec).y = s.y := by
  simp [State.interruptEntry]
@[simp] theorem State.interruptEntry_resetPending (s : State) (b : Bool) (vec : Word) : (s.interruptEntry b vec).resetPending = s.resetPending := by
  simp [State.interruptEntry]
@[simp] theorem State.interruptEntry_nmiPending (s : State) (b : Bool) (vec : Word) : (s.interruptEntry b vec).nmiPending = s.nmiPending := by
  simp [State.interruptEntry]
@[simp] theorem State.interruptEntry_irqPending (s : State) (b : Bool) (vec : Word) : (s.interruptEntry b vec).irqPending = s.irqPending := by
  simp [State.interruptEntry]
@[simp] theorem State.interruptEntry_started (s : State) (b : Bool) (vec : Word) : (s.interruptEntry b vec).started = s.started := by
  simp [State.interruptEntry]
@[simp] theorem State.interruptEntry_oracle (s : State) (b : Bool) (vec : Word) : (s.interruptEntry b vec).oracle = s.oracle := by
  simp [State.interruptEntry]
@[simp] theorem State.interruptEntry_params (s : State) (b : Bool) (vec : Word) : (s.interruptEntry b vec).params = s.params := by
  simp [State.interruptEntry]
@[simp] theorem State.interruptEntry_result (s : State) (b : Bool) (vec : Word) : (s.interruptEntry b vec).result = s.result := by
  simp [State.interruptEntry]
@[simp] theorem State.interruptEntry_plain (s : State) (b : Bool) (vec : Word) (j : Word) : (s.interruptEntry b vec).plain j = s.plain j := by
  simp only [State.plain, State.interruptEntry_oracle]
@[simp] theorem State.interruptEntry_sp (s : State) (b : Bool) (vec : Word) :
    (s.interruptEntry b vec).sp = s.sp - 1#8 - 1#8 - 1#8 := by
  simp [State.interruptEntry]

/-- P after the entry: I is 1, nothing else has changed (60_exceptions.md R303). -/
@[simp] theorem State.interruptEntry_p (s : State) (b : Bool) (vec : Word) :
    (s.interruptEntry b vec).p = putBit s.p 2 true := by
  simp [State.interruptEntry, Flag.bit]

/-- The state after the three pushes of an entry. -/
theorem State.interruptEntry_mem (s : State) (b : Bool) (vec : Word) :
    (s.interruptEntry b vec).mem = (((s.push (hi8 s.pc)).push (lo8 s.pc)).push (pushedP s.p b)).mem := by
  simp [State.interruptEntry]

theorem State.interruptEntry_wf {s : State} (h : s.mem.wf = true) (b : Bool) (vec : Word) :
    (s.interruptEntry b vec).mem.wf = true := by
  rw [State.interruptEntry_mem]
  exact State.push_wf (State.push_wf (State.push_wf h _) _) _

@[simp] theorem State.returnFromInterrupt_a (s : State) : (s.returnFromInterrupt).a = s.a := by
  simp [State.returnFromInterrupt]
@[simp] theorem State.returnFromInterrupt_x (s : State) : (s.returnFromInterrupt).x = s.x := by
  simp [State.returnFromInterrupt]
@[simp] theorem State.returnFromInterrupt_y (s : State) : (s.returnFromInterrupt).y = s.y := by
  simp [State.returnFromInterrupt]
@[simp] theorem State.returnFromInterrupt_resetPending (s : State) : (s.returnFromInterrupt).resetPending = s.resetPending := by
  simp [State.returnFromInterrupt]
@[simp] theorem State.returnFromInterrupt_nmiPending (s : State) : (s.returnFromInterrupt).nmiPending = s.nmiPending := by
  simp [State.returnFromInterrupt]
@[simp] theorem State.returnFromInterrupt_irqPending (s : State) : (s.returnFromInterrupt).irqPending = s.irqPending := by
  simp [State.returnFromInterrupt]
@[simp] theorem State.returnFromInterrupt_started (s : State) : (s.returnFromInterrupt).started = s.started := by
  simp [State.returnFromInterrupt]
@[simp] theorem State.returnFromInterrupt_mem (s : State) : (s.returnFromInterrupt).mem = s.mem := by
  simp [State.returnFromInterrupt]
@[simp] theorem State.returnFromInterrupt_oracle (s : State) : (s.returnFromInterrupt).oracle = s.oracle := by
  simp [State.returnFromInterrupt]
@[simp] theorem State.returnFromInterrupt_params (s : State) : (s.returnFromInterrupt).params = s.params := by
  simp [State.returnFromInterrupt]
@[simp] theorem State.returnFromInterrupt_result (s : State) : (s.returnFromInterrupt).result = s.result := by
  simp [State.returnFromInterrupt]
@[simp] theorem State.returnFromInterrupt_plain (s : State) (j : Word) : (s.returnFromInterrupt).plain j = s.plain j := by
  simp only [State.plain, State.returnFromInterrupt_oracle]
@[simp] theorem State.returnFromInterrupt_sp (s : State) : s.returnFromInterrupt.sp = s.sp + 1#8 + 1#8 + 1#8 := by
  simp [State.returnFromInterrupt]

@[simp] theorem State.returnFromInterrupt_p (s : State) : s.returnFromInterrupt.p = normP s.pull.1 := by
  simp [State.returnFromInterrupt]


end Sys2Proof.Machine
end

