-- ==== Sys2Proof/Laws/Operands.lean ====
section
/-!
SUPPORT. The operand operations (addresses, loads, stores, read-modify-write) and the fetch: what each changes, once.
-/

namespace Sys2Proof

open Machine


/-! ### Page crossing -/

/-- The page of an address is its high byte. -/
theorem and_pageMask (a : Word) : (a &&& 0xFF00#16) = wordOf 0#8 (hi8 a) := by
  apply BitVec.eq_of_getLsbD_eq
  intro i hi
  have h : (wordOf 0#8 (hi8 a)).getLsbD i = (hi8 a ++ 0#8).getLsbD i := rfl
  rw [h, BitVec.getLsbD_append]
  simp only [hi8, BitVec.getLsbD_and, BitVec.getLsbD_extractLsb']
  interval_cases i <;> simp

/-- Two addresses are in different pages when their high bytes differ (40_addressing.md R164). -/
theorem pageCross_eq (a b : Word) : pageCross a b = decide (hi8 a ≠ hi8 b) := by
  simp only [pageCross, and_pageMask]
  by_cases h : hi8 a = hi8 b
  · simp [h]
  · have hne : wordOf 0#8 (hi8 a) ≠ wordOf 0#8 (hi8 b) := fun e => h (by simpa using congrArg hi8 e)
    simp [h, hne]

/-- An index crosses a page when it carries out of the low byte. -/
theorem pageCross_index (w : Word) (b : Byte) :
    pageCross w (w + zext16 b) = decide (256 ≤ w.toNat % 256 + b.toNat) := by
  have hw := w.isLt
  have hb := b.isLt
  have h : hi8 w ≠ hi8 (w + zext16 b) ↔ 256 ≤ w.toNat % 256 + b.toNat := by
    rw [ne_eq, ← BitVec.toNat_inj, hi8_toNat, hi8_toNat, BitVec.toNat_add, zext16_toNat]
    omega
  rw [pageCross_eq]
  simp only [h]

/-- The high byte of a pointed-to target is read inside the pointer's page (40_addressing.md R161). -/
theorem jmpHighAddr_eq (w : Word) : jmpHighAddr w = wordOf (lo8 w + 1#8) (hi8 w) := by
  have hlo : lo8 w + 1#8 = lo8 (w + 1#16) := by
    apply BitVec.eq_of_toNat_eq
    simp [lo8]
  apply BitVec.eq_of_getLsbD_eq
  intro i hi
  have h1 : (wordOf 0#8 (hi8 w)).getLsbD i = (hi8 w ++ 0#8).getLsbD i := rfl
  have h2 : (wordOf (lo8 (w + 1#16)) (hi8 w)).getLsbD i = (hi8 w ++ lo8 (w + 1#16)).getLsbD i := rfl
  rw [jmpHighAddr, and_pageMask, hlo, BitVec.getLsbD_or, h1, h2, BitVec.getLsbD_append, BitVec.getLsbD_append]
  simp only [lo8, BitVec.getLsbD_and, BitVec.getLsbD_extractLsb']
  interval_cases i <;> simp


/-! ### Effective addresses -/

@[simp] theorem Mem.resolve_a (m : Mem) (s : State) : ((m.resolve s).2.2).a = s.a := by
  cases m <;> simp [Mem.resolve]
@[simp] theorem Mem.resolve_x (m : Mem) (s : State) : ((m.resolve s).2.2).x = s.x := by
  cases m <;> simp [Mem.resolve]
@[simp] theorem Mem.resolve_y (m : Mem) (s : State) : ((m.resolve s).2.2).y = s.y := by
  cases m <;> simp [Mem.resolve]
@[simp] theorem Mem.resolve_sp (m : Mem) (s : State) : ((m.resolve s).2.2).sp = s.sp := by
  cases m <;> simp [Mem.resolve]
@[simp] theorem Mem.resolve_pc (m : Mem) (s : State) : ((m.resolve s).2.2).pc = s.pc := by
  cases m <;> simp [Mem.resolve]
@[simp] theorem Mem.resolve_p (m : Mem) (s : State) : ((m.resolve s).2.2).p = s.p := by
  cases m <;> simp [Mem.resolve]
@[simp] theorem Mem.resolve_resetPending (m : Mem) (s : State) : ((m.resolve s).2.2).resetPending = s.resetPending := by
  cases m <;> simp [Mem.resolve]
@[simp] theorem Mem.resolve_nmiPending (m : Mem) (s : State) : ((m.resolve s).2.2).nmiPending = s.nmiPending := by
  cases m <;> simp [Mem.resolve]
@[simp] theorem Mem.resolve_irqPending (m : Mem) (s : State) : ((m.resolve s).2.2).irqPending = s.irqPending := by
  cases m <;> simp [Mem.resolve]
@[simp] theorem Mem.resolve_started (m : Mem) (s : State) : ((m.resolve s).2.2).started = s.started := by
  cases m <;> simp [Mem.resolve]
@[simp] theorem Mem.resolve_mem (m : Mem) (s : State) : ((m.resolve s).2.2).mem = s.mem := by
  cases m <;> simp [Mem.resolve]
@[simp] theorem Mem.resolve_oracle (m : Mem) (s : State) : ((m.resolve s).2.2).oracle = s.oracle := by
  cases m <;> simp [Mem.resolve]
@[simp] theorem Mem.resolve_params (m : Mem) (s : State) : ((m.resolve s).2.2).params = s.params := by
  cases m <;> simp [Mem.resolve]
@[simp] theorem Mem.resolve_result (m : Mem) (s : State) : ((m.resolve s).2.2).result = s.result := by
  cases m <;> simp [Mem.resolve]
@[simp] theorem Mem.resolve_flag (m : Mem) (s : State) (f : Flag) : ((m.resolve s).2.2).flag f = s.flag f := by
  simp only [State.flag, Mem.resolve_p]
@[simp] theorem Mem.resolve_plain (m : Mem) (s : State) (j : Word) : ((m.resolve s).2.2).plain j = s.plain j := by
  simp only [State.plain, Mem.resolve_oracle]
@[simp] theorem JmpOperand.resolve_a (t : JmpOperand) (s : State) : ((t.resolve s).2).a = s.a := by
  cases t <;> simp [JmpOperand.resolve]
@[simp] theorem JmpOperand.resolve_x (t : JmpOperand) (s : State) : ((t.resolve s).2).x = s.x := by
  cases t <;> simp [JmpOperand.resolve]
@[simp] theorem JmpOperand.resolve_y (t : JmpOperand) (s : State) : ((t.resolve s).2).y = s.y := by
  cases t <;> simp [JmpOperand.resolve]
@[simp] theorem JmpOperand.resolve_sp (t : JmpOperand) (s : State) : ((t.resolve s).2).sp = s.sp := by
  cases t <;> simp [JmpOperand.resolve]
@[simp] theorem JmpOperand.resolve_pc (t : JmpOperand) (s : State) : ((t.resolve s).2).pc = s.pc := by
  cases t <;> simp [JmpOperand.resolve]
@[simp] theorem JmpOperand.resolve_p (t : JmpOperand) (s : State) : ((t.resolve s).2).p = s.p := by
  cases t <;> simp [JmpOperand.resolve]
@[simp] theorem JmpOperand.resolve_resetPending (t : JmpOperand) (s : State) : ((t.resolve s).2).resetPending = s.resetPending := by
  cases t <;> simp [JmpOperand.resolve]
@[simp] theorem JmpOperand.resolve_nmiPending (t : JmpOperand) (s : State) : ((t.resolve s).2).nmiPending = s.nmiPending := by
  cases t <;> simp [JmpOperand.resolve]
@[simp] theorem JmpOperand.resolve_irqPending (t : JmpOperand) (s : State) : ((t.resolve s).2).irqPending = s.irqPending := by
  cases t <;> simp [JmpOperand.resolve]
@[simp] theorem JmpOperand.resolve_started (t : JmpOperand) (s : State) : ((t.resolve s).2).started = s.started := by
  cases t <;> simp [JmpOperand.resolve]
@[simp] theorem JmpOperand.resolve_mem (t : JmpOperand) (s : State) : ((t.resolve s).2).mem = s.mem := by
  cases t <;> simp [JmpOperand.resolve]
@[simp] theorem JmpOperand.resolve_oracle (t : JmpOperand) (s : State) : ((t.resolve s).2).oracle = s.oracle := by
  cases t <;> simp [JmpOperand.resolve]
@[simp] theorem JmpOperand.resolve_params (t : JmpOperand) (s : State) : ((t.resolve s).2).params = s.params := by
  cases t <;> simp [JmpOperand.resolve]
@[simp] theorem JmpOperand.resolve_result (t : JmpOperand) (s : State) : ((t.resolve s).2).result = s.result := by
  cases t <;> simp [JmpOperand.resolve]
@[simp] theorem JmpOperand.resolve_flag (t : JmpOperand) (s : State) (f : Flag) : ((t.resolve s).2).flag f = s.flag f := by
  simp only [State.flag, JmpOperand.resolve_p]
@[simp] theorem JmpOperand.resolve_plain (t : JmpOperand) (s : State) (j : Word) : ((t.resolve s).2).plain j = s.plain j := by
  simp only [State.plain, JmpOperand.resolve_oracle]

/-! ### Loads -/

@[simp] theorem Src.load_a (m : Src) (s : State) : ((m.load s).2.2).a = s.a := by
  cases m <;> simp [Src.load]
@[simp] theorem Src.load_x (m : Src) (s : State) : ((m.load s).2.2).x = s.x := by
  cases m <;> simp [Src.load]
@[simp] theorem Src.load_y (m : Src) (s : State) : ((m.load s).2.2).y = s.y := by
  cases m <;> simp [Src.load]
@[simp] theorem Src.load_sp (m : Src) (s : State) : ((m.load s).2.2).sp = s.sp := by
  cases m <;> simp [Src.load]
@[simp] theorem Src.load_pc (m : Src) (s : State) : ((m.load s).2.2).pc = s.pc := by
  cases m <;> simp [Src.load]
@[simp] theorem Src.load_p (m : Src) (s : State) : ((m.load s).2.2).p = s.p := by
  cases m <;> simp [Src.load]
@[simp] theorem Src.load_resetPending (m : Src) (s : State) : ((m.load s).2.2).resetPending = s.resetPending := by
  cases m <;> simp [Src.load]
@[simp] theorem Src.load_nmiPending (m : Src) (s : State) : ((m.load s).2.2).nmiPending = s.nmiPending := by
  cases m <;> simp [Src.load]
@[simp] theorem Src.load_irqPending (m : Src) (s : State) : ((m.load s).2.2).irqPending = s.irqPending := by
  cases m <;> simp [Src.load]
@[simp] theorem Src.load_started (m : Src) (s : State) : ((m.load s).2.2).started = s.started := by
  cases m <;> simp [Src.load]
@[simp] theorem Src.load_mem (m : Src) (s : State) : ((m.load s).2.2).mem = s.mem := by
  cases m <;> simp [Src.load]
@[simp] theorem Src.load_oracle (m : Src) (s : State) : ((m.load s).2.2).oracle = s.oracle := by
  cases m <;> simp [Src.load]
@[simp] theorem Src.load_params (m : Src) (s : State) : ((m.load s).2.2).params = s.params := by
  cases m <;> simp [Src.load]
@[simp] theorem Src.load_result (m : Src) (s : State) : ((m.load s).2.2).result = s.result := by
  cases m <;> simp [Src.load]
@[simp] theorem Src.load_flag (m : Src) (s : State) (f : Flag) : ((m.load s).2.2).flag f = s.flag f := by
  simp only [State.flag, Src.load_p]
@[simp] theorem Src.load_plain (m : Src) (s : State) (j : Word) : ((m.load s).2.2).plain j = s.plain j := by
  simp only [State.plain, Src.load_oracle]
@[simp] theorem Mem.load_a (m : Mem) (s : State) : ((m.load s).2.2).a = s.a := by
  simp [Mem.load]
@[simp] theorem Mem.load_x (m : Mem) (s : State) : ((m.load s).2.2).x = s.x := by
  simp [Mem.load]
@[simp] theorem Mem.load_y (m : Mem) (s : State) : ((m.load s).2.2).y = s.y := by
  simp [Mem.load]
@[simp] theorem Mem.load_sp (m : Mem) (s : State) : ((m.load s).2.2).sp = s.sp := by
  simp [Mem.load]
@[simp] theorem Mem.load_pc (m : Mem) (s : State) : ((m.load s).2.2).pc = s.pc := by
  simp [Mem.load]
@[simp] theorem Mem.load_p (m : Mem) (s : State) : ((m.load s).2.2).p = s.p := by
  simp [Mem.load]
@[simp] theorem Mem.load_resetPending (m : Mem) (s : State) : ((m.load s).2.2).resetPending = s.resetPending := by
  simp [Mem.load]
@[simp] theorem Mem.load_nmiPending (m : Mem) (s : State) : ((m.load s).2.2).nmiPending = s.nmiPending := by
  simp [Mem.load]
@[simp] theorem Mem.load_irqPending (m : Mem) (s : State) : ((m.load s).2.2).irqPending = s.irqPending := by
  simp [Mem.load]
@[simp] theorem Mem.load_started (m : Mem) (s : State) : ((m.load s).2.2).started = s.started := by
  simp [Mem.load]
@[simp] theorem Mem.load_mem (m : Mem) (s : State) : ((m.load s).2.2).mem = s.mem := by
  simp [Mem.load]
@[simp] theorem Mem.load_oracle (m : Mem) (s : State) : ((m.load s).2.2).oracle = s.oracle := by
  simp [Mem.load]
@[simp] theorem Mem.load_params (m : Mem) (s : State) : ((m.load s).2.2).params = s.params := by
  simp [Mem.load]
@[simp] theorem Mem.load_result (m : Mem) (s : State) : ((m.load s).2.2).result = s.result := by
  simp [Mem.load]
@[simp] theorem Mem.load_flag (m : Mem) (s : State) (f : Flag) : ((m.load s).2.2).flag f = s.flag f := by
  simp only [State.flag, Mem.load_p]
@[simp] theorem Mem.load_plain (m : Mem) (s : State) (j : Word) : ((m.load s).2.2).plain j = s.plain j := by
  simp only [State.plain, Mem.load_oracle]

/-- A load of memory is one read of the effective address, after the pointer reads (40_addressing.md R168). -/
theorem Src.load_of_mem (m : Mem) (s : State) :
    Src.load (.mem m) s =
      (((m.resolve s).2.2.memRead (m.resolve s).1).1, (m.resolve s).2.1,
        ((m.resolve s).2.2.memRead (m.resolve s).1).2) := rfl


/-! ### Stores -/

/-- A store is one write of the effective address, after the pointer reads (40_addressing.md R169). -/
theorem Mem.store_eq (m : Mem) (s : State) (v : Byte) : m.store s v = (m.resolve s).2.2.memWrite (m.resolve s).1 v := rfl

@[simp] theorem Mem.store_a (m : Mem) (s : State) (v : Byte) : (m.store s v).a = s.a := by
  simp [Mem.store]
@[simp] theorem Mem.store_x (m : Mem) (s : State) (v : Byte) : (m.store s v).x = s.x := by
  simp [Mem.store]
@[simp] theorem Mem.store_y (m : Mem) (s : State) (v : Byte) : (m.store s v).y = s.y := by
  simp [Mem.store]
@[simp] theorem Mem.store_sp (m : Mem) (s : State) (v : Byte) : (m.store s v).sp = s.sp := by
  simp [Mem.store]
@[simp] theorem Mem.store_pc (m : Mem) (s : State) (v : Byte) : (m.store s v).pc = s.pc := by
  simp [Mem.store]
@[simp] theorem Mem.store_p (m : Mem) (s : State) (v : Byte) : (m.store s v).p = s.p := by
  simp [Mem.store]
@[simp] theorem Mem.store_resetPending (m : Mem) (s : State) (v : Byte) : (m.store s v).resetPending = s.resetPending := by
  simp [Mem.store]
@[simp] theorem Mem.store_nmiPending (m : Mem) (s : State) (v : Byte) : (m.store s v).nmiPending = s.nmiPending := by
  simp [Mem.store]
@[simp] theorem Mem.store_irqPending (m : Mem) (s : State) (v : Byte) : (m.store s v).irqPending = s.irqPending := by
  simp [Mem.store]
@[simp] theorem Mem.store_started (m : Mem) (s : State) (v : Byte) : (m.store s v).started = s.started := by
  simp [Mem.store]
@[simp] theorem Mem.store_oracle (m : Mem) (s : State) (v : Byte) : (m.store s v).oracle = s.oracle := by
  simp [Mem.store]
@[simp] theorem Mem.store_params (m : Mem) (s : State) (v : Byte) : (m.store s v).params = s.params := by
  simp [Mem.store]
@[simp] theorem Mem.store_result (m : Mem) (s : State) (v : Byte) : (m.store s v).result = s.result := by
  simp [Mem.store]
@[simp] theorem Mem.store_flag (m : Mem) (s : State) (v : Byte) (f : Flag) : (m.store s v).flag f = s.flag f := by
  simp only [State.flag, Mem.store_p]
@[simp] theorem Mem.store_plain (m : Mem) (s : State) (v : Byte) (j : Word) : (m.store s v).plain j = s.plain j := by
  simp only [State.plain, Mem.store_oracle]

theorem Mem.store_wf {s : State} (h : s.mem.wf = true) (m : Mem) (v : Byte) : (m.store s v).mem.wf = true := by
  rw [Mem.store_eq]
  exact State.memWrite_wf (by simpa using h) _ v

theorem Mem.store_peek_ne (m : Mem) (s : State) (v : Byte) {j : Nat} (hj : j ≠ (m.resolve s).1.toNat) :
    (m.store s v).mem.peek j = s.mem.peek j := by
  rw [Mem.store_eq, State.memWrite_peek_ne _ _ hj, Mem.resolve_mem]

theorem Mem.store_peek_same (m : Mem) {s : State} (v : Byte) (h : s.mem.wf = true) (hp : s.plain (m.resolve s).1 = true) :
    (m.store s v).mem.peek (m.resolve s).1.toNat = v := by
  rw [Mem.store_eq]
  exact State.memWrite_peek_same v (by simpa using h) (by simpa using hp)


/-! ### Read-modify-write -/

/-- Read-modify-write on memory is one read and one write of one address (40_addressing.md R170). -/
theorem RmwMem.modify_eq (m : RmwMem) (s : State) (f : Byte → Byte) :
    m.modify s f =
      (((m.toMem.resolve s).2.2.memRead (m.toMem.resolve s).1).1,
        ((m.toMem.resolve s).2.2.memRead (m.toMem.resolve s).1).2.memWrite (m.toMem.resolve s).1
          (f ((m.toMem.resolve s).2.2.memRead (m.toMem.resolve s).1).1)) := rfl

@[simp] theorem RmwMem.modify_a (m : RmwMem) (s : State) (g : Byte → Byte) : ((m.modify s g).2).a = s.a := by
  simp [RmwMem.modify]
@[simp] theorem RmwMem.modify_x (m : RmwMem) (s : State) (g : Byte → Byte) : ((m.modify s g).2).x = s.x := by
  simp [RmwMem.modify]
@[simp] theorem RmwMem.modify_y (m : RmwMem) (s : State) (g : Byte → Byte) : ((m.modify s g).2).y = s.y := by
  simp [RmwMem.modify]
@[simp] theorem RmwMem.modify_sp (m : RmwMem) (s : State) (g : Byte → Byte) : ((m.modify s g).2).sp = s.sp := by
  simp [RmwMem.modify]
@[simp] theorem RmwMem.modify_pc (m : RmwMem) (s : State) (g : Byte → Byte) : ((m.modify s g).2).pc = s.pc := by
  simp [RmwMem.modify]
@[simp] theorem RmwMem.modify_p (m : RmwMem) (s : State) (g : Byte → Byte) : ((m.modify s g).2).p = s.p := by
  simp [RmwMem.modify]
@[simp] theorem RmwMem.modify_resetPending (m : RmwMem) (s : State) (g : Byte → Byte) : ((m.modify s g).2).resetPending = s.resetPending := by
  simp [RmwMem.modify]
@[simp] theorem RmwMem.modify_nmiPending (m : RmwMem) (s : State) (g : Byte → Byte) : ((m.modify s g).2).nmiPending = s.nmiPending := by
  simp [RmwMem.modify]
@[simp] theorem RmwMem.modify_irqPending (m : RmwMem) (s : State) (g : Byte → Byte) : ((m.modify s g).2).irqPending = s.irqPending := by
  simp [RmwMem.modify]
@[simp] theorem RmwMem.modify_started (m : RmwMem) (s : State) (g : Byte → Byte) : ((m.modify s g).2).started = s.started := by
  simp [RmwMem.modify]
@[simp] theorem RmwMem.modify_oracle (m : RmwMem) (s : State) (g : Byte → Byte) : ((m.modify s g).2).oracle = s.oracle := by
  simp [RmwMem.modify]
@[simp] theorem RmwMem.modify_params (m : RmwMem) (s : State) (g : Byte → Byte) : ((m.modify s g).2).params = s.params := by
  simp [RmwMem.modify]
@[simp] theorem RmwMem.modify_result (m : RmwMem) (s : State) (g : Byte → Byte) : ((m.modify s g).2).result = s.result := by
  simp [RmwMem.modify]
@[simp] theorem RmwMem.modify_flag (m : RmwMem) (s : State) (g : Byte → Byte) (f : Flag) : ((m.modify s g).2).flag f = s.flag f := by
  simp only [State.flag, RmwMem.modify_p]
@[simp] theorem RmwMem.modify_plain (m : RmwMem) (s : State) (g : Byte → Byte) (j : Word) : ((m.modify s g).2).plain j = s.plain j := by
  simp only [State.plain, RmwMem.modify_oracle]

theorem RmwMem.modify_wf {s : State} (h : s.mem.wf = true) (m : RmwMem) (f : Byte → Byte) :
    (m.modify s f).2.mem.wf = true := by
  rw [RmwMem.modify_eq]
  exact State.memWrite_wf (by simpa using h) _ _

theorem RmwMem.modify_peek_ne (m : RmwMem) (s : State) (f : Byte → Byte) {j : Nat} (hj : j ≠ (m.toMem.resolve s).1.toNat) :
    (m.modify s f).2.mem.peek j = s.mem.peek j := by
  rw [RmwMem.modify_eq, State.memWrite_peek_ne _ _ hj]
  simp

theorem RmwMem.modify_peek_same (m : RmwMem) {s : State} (f : Byte → Byte) (h : s.mem.wf = true)
    (hp : s.plain (m.toMem.resolve s).1 = true) :
    (m.modify s f).2.mem.peek (m.toMem.resolve s).1.toNat = f (m.modify s f).1 := by
  rw [RmwMem.modify_eq]
  exact State.memWrite_peek_same _ (by simpa using h) (by simpa using hp)

theorem RmwMem.modify_value (m : RmwMem) {s : State} (f : Byte → Byte) (hp : s.plain (m.toMem.resolve s).1 = true) :
    (m.modify s f).1 = s.mem.peek (m.toMem.resolve s).1.toNat := by
  rw [RmwMem.modify_eq]
  simp only [State.memRead_of_plain (s := (m.toMem.resolve s).2.2) (k := (m.toMem.resolve s).1) (by simpa using hp),
    Mem.resolve_mem]

theorem RmwMem.modify_bus (m : RmwMem) (s : State) (f : Byte → Byte) :
    (m.modify s f).2.bus =
      s.bus ++ [.read (m.toMem.resolve s).1 (m.modify s f).1, .write (m.toMem.resolve s).1 (f (m.modify s f).1)] := by
  rw [RmwMem.modify_eq]
  cases m <;> simp [RmwMem.toMem, Mem.resolve]

theorem Rmw.modify_acc (s : State) (f : Byte → Byte) : Rmw.modify .acc s f = (s.a, { s with a := f s.a }) := rfl

theorem Rmw.modify_mem (m : RmwMem) (s : State) (f : Byte → Byte) : Rmw.modify (.mem m) s f = m.modify s f := rfl

@[simp] theorem Rmw.modify_x (m : Rmw) (s : State) (g : Byte → Byte) : ((m.modify s g).2).x = s.x := by
  cases m <;> simp [Rmw.modify]
@[simp] theorem Rmw.modify_y (m : Rmw) (s : State) (g : Byte → Byte) : ((m.modify s g).2).y = s.y := by
  cases m <;> simp [Rmw.modify]
@[simp] theorem Rmw.modify_sp (m : Rmw) (s : State) (g : Byte → Byte) : ((m.modify s g).2).sp = s.sp := by
  cases m <;> simp [Rmw.modify]
@[simp] theorem Rmw.modify_pc (m : Rmw) (s : State) (g : Byte → Byte) : ((m.modify s g).2).pc = s.pc := by
  cases m <;> simp [Rmw.modify]
@[simp] theorem Rmw.modify_p (m : Rmw) (s : State) (g : Byte → Byte) : ((m.modify s g).2).p = s.p := by
  cases m <;> simp [Rmw.modify]
@[simp] theorem Rmw.modify_resetPending (m : Rmw) (s : State) (g : Byte → Byte) : ((m.modify s g).2).resetPending = s.resetPending := by
  cases m <;> simp [Rmw.modify]
@[simp] theorem Rmw.modify_nmiPending (m : Rmw) (s : State) (g : Byte → Byte) : ((m.modify s g).2).nmiPending = s.nmiPending := by
  cases m <;> simp [Rmw.modify]
@[simp] theorem Rmw.modify_irqPending (m : Rmw) (s : State) (g : Byte → Byte) : ((m.modify s g).2).irqPending = s.irqPending := by
  cases m <;> simp [Rmw.modify]
@[simp] theorem Rmw.modify_started (m : Rmw) (s : State) (g : Byte → Byte) : ((m.modify s g).2).started = s.started := by
  cases m <;> simp [Rmw.modify]
@[simp] theorem Rmw.modify_oracle (m : Rmw) (s : State) (g : Byte → Byte) : ((m.modify s g).2).oracle = s.oracle := by
  cases m <;> simp [Rmw.modify]
@[simp] theorem Rmw.modify_params (m : Rmw) (s : State) (g : Byte → Byte) : ((m.modify s g).2).params = s.params := by
  cases m <;> simp [Rmw.modify]
@[simp] theorem Rmw.modify_result (m : Rmw) (s : State) (g : Byte → Byte) : ((m.modify s g).2).result = s.result := by
  cases m <;> simp [Rmw.modify]
@[simp] theorem Rmw.modify_flag (m : Rmw) (s : State) (g : Byte → Byte) (f : Flag) : ((m.modify s g).2).flag f = s.flag f := by
  simp only [State.flag, Rmw.modify_p]
@[simp] theorem Rmw.modify_plain (m : Rmw) (s : State) (g : Byte → Byte) (j : Word) : ((m.modify s g).2).plain j = s.plain j := by
  simp only [State.plain, Rmw.modify_oracle]

theorem Rmw.modify_wf {s : State} (h : s.mem.wf = true) (m : Rmw) (f : Byte → Byte) : (m.modify s f).2.mem.wf = true := by
  cases m with
  | acc => exact h
  | mem m => exact RmwMem.modify_wf h m f


/-! ### The fetch -/

@[simp] theorem State.operandByte_a (s : State) (b : Bool) : ((s.operandByte b).2).a = s.a := by
  cases b <;> simp [State.operandByte]
@[simp] theorem State.operandByte_x (s : State) (b : Bool) : ((s.operandByte b).2).x = s.x := by
  cases b <;> simp [State.operandByte]
@[simp] theorem State.operandByte_y (s : State) (b : Bool) : ((s.operandByte b).2).y = s.y := by
  cases b <;> simp [State.operandByte]
@[simp] theorem State.operandByte_sp (s : State) (b : Bool) : ((s.operandByte b).2).sp = s.sp := by
  cases b <;> simp [State.operandByte]
@[simp] theorem State.operandByte_p (s : State) (b : Bool) : ((s.operandByte b).2).p = s.p := by
  cases b <;> simp [State.operandByte]
@[simp] theorem State.operandByte_resetPending (s : State) (b : Bool) : ((s.operandByte b).2).resetPending = s.resetPending := by
  cases b <;> simp [State.operandByte]
@[simp] theorem State.operandByte_nmiPending (s : State) (b : Bool) : ((s.operandByte b).2).nmiPending = s.nmiPending := by
  cases b <;> simp [State.operandByte]
@[simp] theorem State.operandByte_irqPending (s : State) (b : Bool) : ((s.operandByte b).2).irqPending = s.irqPending := by
  cases b <;> simp [State.operandByte]
@[simp] theorem State.operandByte_started (s : State) (b : Bool) : ((s.operandByte b).2).started = s.started := by
  cases b <;> simp [State.operandByte]
@[simp] theorem State.operandByte_mem (s : State) (b : Bool) : ((s.operandByte b).2).mem = s.mem := by
  cases b <;> simp [State.operandByte]
@[simp] theorem State.operandByte_oracle (s : State) (b : Bool) : ((s.operandByte b).2).oracle = s.oracle := by
  cases b <;> simp [State.operandByte]
@[simp] theorem State.operandByte_params (s : State) (b : Bool) : ((s.operandByte b).2).params = s.params := by
  cases b <;> simp [State.operandByte]
@[simp] theorem State.operandByte_result (s : State) (b : Bool) : ((s.operandByte b).2).result = s.result := by
  cases b <;> simp [State.operandByte]
@[simp] theorem State.operandByte_flag (s : State) (b : Bool) (f : Flag) : ((s.operandByte b).2).flag f = s.flag f := by
  simp only [State.flag, State.operandByte_p]
@[simp] theorem State.operandByte_plain (s : State) (b : Bool) (j : Word) : ((s.operandByte b).2).plain j = s.plain j := by
  simp only [State.plain, State.operandByte_oracle]
@[simp] theorem State.operandByte_pc (s : State) (b : Bool) : (s.operandByte b).2.pc = s.pc + (bitByte b).setWidth 16 := by
  cases b <;> simp [State.operandByte, bitByte]

@[simp] theorem State.fetchInstr_a (s : State) : (s.fetchInstr.2).a = s.a := by
  simp [State.fetchInstr]
@[simp] theorem State.fetchInstr_x (s : State) : (s.fetchInstr.2).x = s.x := by
  simp [State.fetchInstr]
@[simp] theorem State.fetchInstr_y (s : State) : (s.fetchInstr.2).y = s.y := by
  simp [State.fetchInstr]
@[simp] theorem State.fetchInstr_sp (s : State) : (s.fetchInstr.2).sp = s.sp := by
  simp [State.fetchInstr]
@[simp] theorem State.fetchInstr_p (s : State) : (s.fetchInstr.2).p = s.p := by
  simp [State.fetchInstr]
@[simp] theorem State.fetchInstr_resetPending (s : State) : (s.fetchInstr.2).resetPending = s.resetPending := by
  simp [State.fetchInstr]
@[simp] theorem State.fetchInstr_nmiPending (s : State) : (s.fetchInstr.2).nmiPending = s.nmiPending := by
  simp [State.fetchInstr]
@[simp] theorem State.fetchInstr_irqPending (s : State) : (s.fetchInstr.2).irqPending = s.irqPending := by
  simp [State.fetchInstr]
@[simp] theorem State.fetchInstr_started (s : State) : (s.fetchInstr.2).started = s.started := by
  simp [State.fetchInstr]
@[simp] theorem State.fetchInstr_mem (s : State) : (s.fetchInstr.2).mem = s.mem := by
  simp [State.fetchInstr]
@[simp] theorem State.fetchInstr_oracle (s : State) : (s.fetchInstr.2).oracle = s.oracle := by
  simp [State.fetchInstr]
@[simp] theorem State.fetchInstr_params (s : State) : (s.fetchInstr.2).params = s.params := by
  simp [State.fetchInstr]
@[simp] theorem State.fetchInstr_flag (s : State) (f : Flag) : (s.fetchInstr.2).flag f = s.flag f := by
  simp only [State.flag, State.fetchInstr_p]
@[simp] theorem State.fetchInstr_plain (s : State) (j : Word) : (s.fetchInstr.2).plain j = s.plain j := by
  simp only [State.plain, State.fetchInstr_oracle]

end Sys2Proof
end

