-- ==== Sys2Proof/Laws/Exec.lean ====
section
/-!
SUPPORT. The next state of every instruction, as one equation each over the shared operations, so that no later proof unfolds a
meaning.
-/

namespace Sys2Proof.Machine

theorem exec_lda (m : Src) (s : State) :
    exec (.lda m) s = .next ((State.setNZ { (m.load s).2.2 with a := (m.load s).1 } (m.load s).1).finish ((Instr.lda m).cycles (m.load s).2.1 0)) := rfl

theorem exec_ldx (m : Src) (s : State) :
    exec (.ldx m) s = .next ((State.setNZ { (m.load s).2.2 with x := (m.load s).1 } (m.load s).1).finish ((Instr.ldx m).cycles (m.load s).2.1 0)) := rfl

theorem exec_ldy (m : Src) (s : State) :
    exec (.ldy m) s = .next ((State.setNZ { (m.load s).2.2 with y := (m.load s).1 } (m.load s).1).finish ((Instr.ldy m).cycles (m.load s).2.1 0)) := rfl

theorem exec_sta (m : Mem) (s : State) :
    exec (.sta m) s = .next ((m.store s s.a).finish ((Instr.sta m).cycles false 0)) := rfl

theorem exec_stx (m : Mem) (s : State) :
    exec (.stx m) s = .next ((m.store s s.x).finish ((Instr.stx m).cycles false 0)) := rfl

theorem exec_sty (m : Mem) (s : State) :
    exec (.sty m) s = .next ((m.store s s.y).finish ((Instr.sty m).cycles false 0)) := rfl

theorem exec_tax (s : State) :
    exec .tax s = .next ((State.setNZ { s with x := s.a } s.a).finish 2) := rfl

theorem exec_tay (s : State) :
    exec .tay s = .next ((State.setNZ { s with y := s.a } s.a).finish 2) := rfl

theorem exec_txa (s : State) :
    exec .txa s = .next ((State.setNZ { s with a := s.x } s.x).finish 2) := rfl

theorem exec_tya (s : State) :
    exec .tya s = .next ((State.setNZ { s with a := s.y } s.y).finish 2) := rfl

theorem exec_tsx (s : State) :
    exec .tsx s = .next ((State.setNZ { s with x := s.sp } s.sp).finish 2) := rfl

theorem exec_txs (s : State) :
    exec .txs s = .next (State.finish { s with sp := s.x } 2) := rfl

theorem exec_pha (s : State) :
    exec .pha s = .next ((s.push s.a).finish 3) := rfl

theorem exec_php (s : State) :
    exec .php s = .next ((s.push (pushedP s.p true)).finish 3) := rfl

theorem exec_pla (s : State) :
    exec .pla s = .next ((State.setNZ { s.pull.2 with a := s.pull.1 } s.pull.1).finish 4) := rfl

theorem exec_plp (s : State) :
    exec .plp s = .next (s.pullP.finish 4) := rfl

theorem exec_adc (m : Src) (s : State) :
    exec (.adc m) s =
      let f := aluAdc s.params.decimalNV (s.flag .d) s.a (m.load s).1 (s.flag .c)
      .next ((State.setNVZC { (m.load s).2.2 with a := f.r } f).finish ((Instr.adc m).cycles (m.load s).2.1 0)) := by
  simp only [exec, execAdc, Src.load_params, Src.load_flag, Src.load_a]

theorem exec_sbc (m : Src) (s : State) :
    exec (.sbc m) s =
      let f := aluSbc (s.flag .d) s.a (m.load s).1 (s.flag .c)
      .next ((State.setNVZC { (m.load s).2.2 with a := f.r } f).finish ((Instr.sbc m).cycles (m.load s).2.1 0)) := by
  simp only [exec, execSbc, Src.load_params, Src.load_flag, Src.load_a]

theorem exec_cmp (m : Src) (s : State) :
    exec (.cmp m) s = .next (((m.load s).2.2.setNZC (aluCmp s.a (m.load s).1)).finish ((Instr.cmp m).cycles (m.load s).2.1 0)) := rfl

theorem exec_cpx (m : Src) (s : State) :
    exec (.cpx m) s = .next (((m.load s).2.2.setNZC (aluCmp s.x (m.load s).1)).finish ((Instr.cpx m).cycles (m.load s).2.1 0)) := rfl

theorem exec_cpy (m : Src) (s : State) :
    exec (.cpy m) s = .next (((m.load s).2.2.setNZC (aluCmp s.y (m.load s).1)).finish ((Instr.cpy m).cycles (m.load s).2.1 0)) := rfl

theorem exec_inc (m : RmwMem) (s : State) :
    exec (.inc m) s = .next (((m.modify s aluInc).2.setNZ (aluInc (m.modify s aluInc).1)).finish ((Instr.inc m).cycles false 0)) := rfl

theorem exec_dec (m : RmwMem) (s : State) :
    exec (.dec m) s = .next (((m.modify s aluDec).2.setNZ (aluDec (m.modify s aluDec).1)).finish ((Instr.dec m).cycles false 0)) := rfl

theorem exec_inx (s : State) :
    exec .inx s = .next ((State.setNZ { s with x := aluInc s.x } (aluInc s.x)).finish 2) := rfl

theorem exec_iny (s : State) :
    exec .iny s = .next ((State.setNZ { s with y := aluInc s.y } (aluInc s.y)).finish 2) := rfl

theorem exec_dex (s : State) :
    exec .dex s = .next ((State.setNZ { s with x := aluDec s.x } (aluDec s.x)).finish 2) := rfl

theorem exec_dey (s : State) :
    exec .dey s = .next ((State.setNZ { s with y := aluDec s.y } (aluDec s.y)).finish 2) := rfl

theorem exec_and (m : Src) (s : State) :
    exec (.and m) s = .next ((State.setNZ { (m.load s).2.2 with a := s.a &&& (m.load s).1 } (s.a &&& (m.load s).1)).finish
      ((Instr.and m).cycles (m.load s).2.1 0)) := by
  simp only [exec, execAnd, Src.load_a]

theorem exec_ora (m : Src) (s : State) :
    exec (.ora m) s = .next ((State.setNZ { (m.load s).2.2 with a := s.a ||| (m.load s).1 } (s.a ||| (m.load s).1)).finish
      ((Instr.ora m).cycles (m.load s).2.1 0)) := by
  simp only [exec, execOra, Src.load_a]

theorem exec_eor (m : Src) (s : State) :
    exec (.eor m) s = .next ((State.setNZ { (m.load s).2.2 with a := s.a ^^^ (m.load s).1 } (s.a ^^^ (m.load s).1)).finish
      ((Instr.eor m).cycles (m.load s).2.1 0)) := by
  simp only [exec, execEor, Src.load_a]

theorem exec_bit (m : Mem) (s : State) :
    exec (.bit m) s = .next (((((m.load s).2.2.setFlag .z ((s.a &&& (m.load s).1) == 0#8)).setFlag .n ((m.load s).1.getLsbD 7)).setFlag
      .v ((m.load s).1.getLsbD 6)).finish ((Instr.bit m).cycles (m.load s).2.1 0)) := by
  simp only [exec, execBit, Mem.load_a]

theorem exec_asl (m : Rmw) (s : State) :
    exec (.asl m) s =
      let q := m.modify s fun v => (aluAsl v).1
      .next (((q.2.setFlag .c (aluAsl q.1).2).setNZ (aluAsl q.1).1).finish ((Instr.asl m).cycles false 0)) := rfl

theorem exec_lsr (m : Rmw) (s : State) :
    exec (.lsr m) s =
      let q := m.modify s fun v => (aluLsr v).1
      .next (((q.2.setFlag .c (aluLsr q.1).2).setNZ (aluLsr q.1).1).finish ((Instr.lsr m).cycles false 0)) := rfl

theorem exec_rol (m : Rmw) (s : State) :
    exec (.rol m) s =
      let q := m.modify s fun v => (aluRol (s.flag .c) v).1
      .next (((q.2.setFlag .c (aluRol (s.flag .c) q.1).2).setNZ (aluRol (s.flag .c) q.1).1).finish ((Instr.rol m).cycles false 0)) := rfl

theorem exec_ror (m : Rmw) (s : State) :
    exec (.ror m) s =
      let q := m.modify s fun v => (aluRor (s.flag .c) v).1
      .next (((q.2.setFlag .c (aluRor (s.flag .c) q.1).2).setNZ (aluRor (s.flag .c) q.1).1).finish ((Instr.ror m).cycles false 0)) := rfl

theorem exec_bcc (b : Byte) (s : State) :
    exec (.bcc b) s = .next (if (!s.flag .c) then
      State.finish { s with pc := branchTarget s.pc b } (3 + (pageCross s.pc (branchTarget s.pc b)).toNat) else s.finish 2) := by
  simp only [exec, execBcc, branch]
  split
  · cases pageCross s.pc (branchTarget s.pc b) <;> rfl
  · rfl

theorem exec_bcs (b : Byte) (s : State) :
    exec (.bcs b) s = .next (if (s.flag .c) then
      State.finish { s with pc := branchTarget s.pc b } (3 + (pageCross s.pc (branchTarget s.pc b)).toNat) else s.finish 2) := by
  simp only [exec, execBcs, branch]
  split
  · cases pageCross s.pc (branchTarget s.pc b) <;> rfl
  · rfl

theorem exec_beq (b : Byte) (s : State) :
    exec (.beq b) s = .next (if (s.flag .z) then
      State.finish { s with pc := branchTarget s.pc b } (3 + (pageCross s.pc (branchTarget s.pc b)).toNat) else s.finish 2) := by
  simp only [exec, execBeq, branch]
  split
  · cases pageCross s.pc (branchTarget s.pc b) <;> rfl
  · rfl

theorem exec_bne (b : Byte) (s : State) :
    exec (.bne b) s = .next (if (!s.flag .z) then
      State.finish { s with pc := branchTarget s.pc b } (3 + (pageCross s.pc (branchTarget s.pc b)).toNat) else s.finish 2) := by
  simp only [exec, execBne, branch]
  split
  · cases pageCross s.pc (branchTarget s.pc b) <;> rfl
  · rfl

theorem exec_bmi (b : Byte) (s : State) :
    exec (.bmi b) s = .next (if (s.flag .n) then
      State.finish { s with pc := branchTarget s.pc b } (3 + (pageCross s.pc (branchTarget s.pc b)).toNat) else s.finish 2) := by
  simp only [exec, execBmi, branch]
  split
  · cases pageCross s.pc (branchTarget s.pc b) <;> rfl
  · rfl

theorem exec_bpl (b : Byte) (s : State) :
    exec (.bpl b) s = .next (if (!s.flag .n) then
      State.finish { s with pc := branchTarget s.pc b } (3 + (pageCross s.pc (branchTarget s.pc b)).toNat) else s.finish 2) := by
  simp only [exec, execBpl, branch]
  split
  · cases pageCross s.pc (branchTarget s.pc b) <;> rfl
  · rfl

theorem exec_bvc (b : Byte) (s : State) :
    exec (.bvc b) s = .next (if (!s.flag .v) then
      State.finish { s with pc := branchTarget s.pc b } (3 + (pageCross s.pc (branchTarget s.pc b)).toNat) else s.finish 2) := by
  simp only [exec, execBvc, branch]
  split
  · cases pageCross s.pc (branchTarget s.pc b) <;> rfl
  · rfl

theorem exec_bvs (b : Byte) (s : State) :
    exec (.bvs b) s = .next (if (s.flag .v) then
      State.finish { s with pc := branchTarget s.pc b } (3 + (pageCross s.pc (branchTarget s.pc b)).toNat) else s.finish 2) := by
  simp only [exec, execBvs, branch]
  split
  · cases pageCross s.pc (branchTarget s.pc b) <;> rfl
  · rfl

theorem exec_jmp (t : JmpOperand) (s : State) :
    exec (.jmp t) s = .next (State.finish { (t.resolve s).2 with pc := (t.resolve s).1 } ((Instr.jmp t).cycles false 0)) := rfl

theorem exec_jsr (target : Word) (s : State) :
    exec (.jsr target) s =
      let u := (s.push (hi8 s.pc)).push (lo8 s.pc)
      .next (State.finish { (u.memRead s.pc).2 with pc := wordOf (lo8 target) (u.memRead s.pc).1 } 6) := by
  simp only [exec, execJsr, State.push_pc]
  rfl

theorem exec_rts (s : State) :
    exec .rts s =
      .next (State.finish { s.pull.2.pull.2 with pc := wordOf s.pull.1 s.pull.2.pull.1 + 1#16 } 6) := rfl

theorem exec_rti (s : State) : exec .rti s = .next (s.returnFromInterrupt.finish 6) := rfl

theorem exec_brk (signature : Byte) (s : State) :
    exec (.brk signature) s = .next ((State.interruptEntry { s with pc := s.pc + 1#16 } true 0xFFFE#16).finish 7) := rfl

theorem exec_clc (s : State) :
    exec .clc s = .next ((s.setFlag .c false).finish 2) := rfl

theorem exec_sec (s : State) :
    exec .sec s = .next ((s.setFlag .c true).finish 2) := rfl

theorem exec_cli (s : State) :
    exec .cli s = .next ((s.setFlag .i false).finish 2) := rfl

theorem exec_sei (s : State) :
    exec .sei s = .next ((s.setFlag .i true).finish 2) := rfl

theorem exec_cld (s : State) :
    exec .cld s = .next ((s.setFlag .d false).finish 2) := rfl

theorem exec_sed (s : State) :
    exec .sed s = .next ((s.setFlag .d true).finish 2) := rfl

theorem exec_clv (s : State) :
    exec .clv s = .next ((s.setFlag .v false).finish 2) := rfl

theorem exec_nop (s : State) :
    exec .nop s = .next (s.finish 2) := rfl

theorem exec_nopImp (op : Byte) (s : State) :
    exec (.nopImp op) s = .next (s.finish 2) := rfl

theorem exec_nopImm (op v : Byte) (s : State) :
    exec (.nopImm op v) s = .next (s.finish 2) := rfl

theorem exec_nopZp (op b : Byte) (s : State) :
    exec (.nopZp op b) s = .next (s.finish 3) := rfl

theorem exec_nopZpx (op b : Byte) (s : State) :
    exec (.nopZpx op b) s = .next (s.finish 4) := rfl

theorem exec_nopAbs (op : Byte) (w : Word) (s : State) :
    exec (.nopAbs op w) s = .next (s.finish 4) := rfl

theorem exec_nopAbsx (op : Byte) (w : Word) (s : State) :
    exec (.nopAbsx op w) s = .next (s.finish ((Instr.nopAbsx op w).cycles (pageCross w (w + zext16 s.x)) 0)) := rfl

theorem exec_unrecognized (op : Byte) (s : State) :
    exec (.unrecognized op) s = .next { s with
      pc := if s.params.unrecognizedAdvance then s.pc else s.pc - 1#16
      result := ⟨2, op, false⟩ } := by
  simp only [exec, execUnrecognized]
  split <;> rfl

end Sys2Proof.Machine
end

