-- ==== Sys2Proof/Laws/Frames.lean ====
section
/-!
SUPPORT. How the claims' vocabulary (NZ, the frames) follows from what the flags and fields of a state read.
-/

namespace Sys2Proof.Machine

theorem getLsbD_seven_iff (r : Byte) : r.getLsbD 7 = true ↔ 128 ≤ r.toNat := by
  revert r
  decide +kernel

theorem beq_zero_iff (r : Byte) : (r == 0#8) = true ↔ r.toNat = 0 := by
  revert r
  decide +kernel

/-- N and Z are those of `r` when they read as `SetNZ(r)` writes them. -/
theorem NZ.of_flags {t : State} {r : Byte} (hn : t.flag .n = r.getLsbD 7) (hz : t.flag .z = (r == 0#8)) : NZ t r := by
  rw [NZ, hn, hz]
  exact ⟨getLsbD_seven_iff r, beq_zero_iff r⟩

/-- Flags are kept when each flag outside the list, and bits 4 and 5, read as before. -/
theorem FlagsKept.of_p {s t : State} {l : List Flag} (h : ∀ f, f ∉ l → flagOf t.p f = flagOf s.p f)
    (h4 : t.p.getLsbD 4 = s.p.getLsbD 4) (h5 : t.p.getLsbD 5 = s.p.getLsbD 5) : FlagsKept s t l :=
  ⟨h, h4, h5⟩

/-- Equal status registers keep every flag. -/
theorem FlagsKept.of_eq {s t : State} (h : t.p = s.p) (l : List Flag) : FlagsKept s t l :=
  ⟨fun f _ => by simp only [State.flag, h], by rw [h], by rw [h]⟩

theorem RegsKept.of_reads {s t : State} {l : List Reg} (ha : .a ∈ l ∨ t.a = s.a) (hx : .x ∈ l ∨ t.x = s.x)
    (hy : .y ∈ l ∨ t.y = s.y) (hsp : .sp ∈ l ∨ t.sp = s.sp) : RegsKept s t l := by
  intro r hr
  cases r
  · exact ha.resolve_left hr
  · exact hx.resolve_left hr
  · exact hy.resolve_left hr
  · exact hsp.resolve_left hr

theorem MemKept.of_eq {s t : State} (h : t.mem = s.mem) : MemKept s t := fun k => by rw [h]

/-! The stack addresses that the pushing instructions store to. -/

@[simp] theorem storedAt_pha (s : State) : Instr.pha.storedAt s = [stackAddr s.sp] := by
  simp [Instr.storedAt, Instr.stored]
@[simp] theorem storedAt_php (s : State) : Instr.php.storedAt s = [stackAddr s.sp] := by
  simp [Instr.storedAt, Instr.stored]
@[simp] theorem storedAt_jsr (w : Word) (s : State) :
    (Instr.jsr w).storedAt s = [stackAddr s.sp, stackAddr (s.sp - 1#8)] := by
  simp [Instr.storedAt, Instr.stored, List.range_succ]
@[simp] theorem storedAt_brk (b : Byte) (s : State) :
    (Instr.brk b).storedAt s = [stackAddr s.sp, stackAddr (s.sp - 1#8), stackAddr (s.sp - 2#8)] := by
  simp [Instr.storedAt, Instr.stored, List.range_succ]

/-- `Entered` reads a state only through its registers, P, memory, the declared regions and the bus accesses. -/
theorem Entered.congr {s s' t t' : State} {ret : Word} {b : Bool} {vector : Word} (h : Entered s t ret b vector)
    (ha : s'.a = s.a) (hx : s'.x = s.x) (hy : s'.y = s.y) (hsp : s'.sp = s.sp) (hp : s'.p = s.p) (hm : s'.mem = s.mem)
    (ho : s'.oracle = s.oracle) (hb : s'.bus = s.bus)
    (ta : t'.a = t.a) (tx : t'.x = t.x) (ty : t'.y = t.y) (tsp : t'.sp = t.sp) (tp : t'.p = t.p) (tm : t'.mem = t.mem)
    (tpc : t'.pc = t.pc) (tb : t'.bus = t.bus) : Entered s' t' ret b vector where
  regs := .of_reads (by rw [ta, ha]; exact .inr (h.regs .a (by decide))) (by rw [tx, hx]; exact .inr (h.regs .x (by decide)))
    (by rw [ty, hy]; exact .inr (h.regs .y (by decide))) (.inl (by decide))
  sp := by rw [tsp, hsp]; exact h.sp
  irqDisabled := by simpa only [State.flag, tp] using h.irqDisabled
  flags := by simpa only [FlagsKept, State.flag, tp, hp] using h.flags
  memory := by simpa only [MemKeptBut, tm, hm, hsp] using h.memory
  pcHigh := by simpa only [Holds, State.plain, tm, hm, hsp, ho] using h.pcHigh
  pcLow := by simpa only [Holds, State.plain, tm, hm, hsp, ho] using h.pcLow
  target := by simpa only [PushedCopy, State.flag, Holds, State.plain, tm, hm, tpc, tb, hb, hsp, ho, hp] using h.target

/-- The byte the model pushes for P is the copy of 10_state.md R56. -/
theorem pushedP_bits (s : State) (b : Bool) : PushedCopy s b (pushedP s.p b) := by
  have h : ∀ (p : Byte) (b : Bool), let v := pushedP p b
      v.getLsbD 7 = flagOf p .n ∧ v.getLsbD 6 = flagOf p .v ∧ v.getLsbD 5 = true ∧ v.getLsbD 4 = b ∧
        v.getLsbD 3 = flagOf p .d ∧ v.getLsbD 2 = flagOf p .i ∧ v.getLsbD 1 = flagOf p .z ∧ v.getLsbD 0 = flagOf p .c := by
    decide +kernel
  exact h s.p b

/-- What the shared entry does, once (60_exceptions.md R303). -/
theorem State.interruptEntry_entered (s : State) (b : Bool) (vector : Word) :
    Entered s (s.interruptEntry b vector) s.pc b vector where
  regs := .of_reads (by simp) (by simp) (by simp) (by simp)
  sp := by
    rw [State.interruptEntry_sp]
    bv_omega
  irqDisabled := by simp [State.flag, flagOf, Flag.bit]
  flags := by
    refine .of_p ?_ (by simp) (by simp)
    intro f hf
    cases f <;> simp_all [flagOf, Flag.bit]
  memory := by
    intro k hk
    have e : s.sp - 1#8 - 1#8 = s.sp - 2#8 := by bv_omega
    rw [State.interruptEntry_mem, State.push_peek_ne _ _ (by simpa [e] using hk (stackAddr (s.sp - 2#8)) (by simp))]
    exact State.push_push_peek_ne s _ _ (hk _ (by simp)) (hk _ (by simp))
  pcHigh := by
    intro h hp
    rw [State.interruptEntry_mem, State.push_peek_ne]
    · exact State.push_push_peek_first _ _ h hp
    · simp only [State.push_sp]
      exact stackAddr_ne (by bv_omega)
  pcLow := by
    intro h hp
    rw [State.interruptEntry_mem, State.push_peek_ne]
    · exact State.push_push_peek_second _ _ h hp
    · simp only [State.push_sp]
      exact stackAddr_ne (by bv_omega)
  target := by
    have e : s.sp - 1#8 - 1#8 = s.sp - 2#8 := by bv_omega
    let u := (((s.push (hi8 s.pc)).push (lo8 s.pc)).push (pushedP s.p b)).setFlag .i true
    refine ⟨pushedP s.p b, (u.memRead vector).1, ((u.memRead vector).2.memRead (vector + 1#16)).1, pushedP_bits s b, ?_,
      ?_, ?_, ?_, ?_⟩
    · intro h hp
      have := State.push_peek_same (s := (s.push (hi8 s.pc)).push (lo8 s.pc)) (pushedP s.p b)
        (State.push_wf (State.push_wf h _) _) (by simpa [e] using hp)
      rw [State.interruptEntry_mem]
      simpa [e] using this
    · simp [State.interruptEntry, State.readWord, u]
    · simp [State.interruptEntry, State.readWord, e, u]
    · intro h
      rw [State.memRead_of_plain (by simpa only [u, State.setFlag_plain, State.push_plain] using h), State.interruptEntry_mem]
      rfl
    · intro h
      rw [State.memRead_of_plain (by simpa only [u, State.memRead_plain, State.setFlag_plain, State.push_plain] using h),
        State.interruptEntry_mem, State.memRead_mem]
      rfl

end Sys2Proof.Machine
end

