-- ==== Sys2Proof/Laws/PerInstr.lean ====
section
/-!
SUPPORT. Facts about every instruction as syntax, one lemma per constructor. OpcodeLeadsEncoding: a well-formed instruction has
an opcode byte, its encoding is that byte and its operand bytes, and it is `Instr.length` bytes long (spec/30_encoding.md R111).
-/

namespace Sys2Proof.Laws.OpcodeLeadsEncoding

/-- The encoding of a well-formed instruction is its opcode byte and then its operand bytes, of the length R112 gives. -/
def Statement (i : Instr) : Prop :=
  i.wellFormed = true → ∃ op, i.opcode? = some op ∧ encode i = op :: i.operandBytes ∧ i.operandBytes.length + 1 = i.length

/-- From the opcode byte and the length of the operand bytes. -/
theorem Statement.of_opcode {i : Instr} {op : Byte} (h : i.opcode? = some op) (hl : i.operandBytes.length + 1 = i.length) :
    Statement i :=
  fun _ => ⟨op, h, by simp only [encode, h], hl⟩

theorem lda (m : Src) : Statement (.lda m) := by
  cases m with
  | imm v => exact .of_opcode rfl rfl
  | mem m => cases m <;> first | exact .of_opcode rfl rfl | exact fun h => absurd h Bool.false_ne_true

theorem ldx (m : Src) : Statement (.ldx m) := by
  cases m with
  | imm v => exact .of_opcode rfl rfl
  | mem m => cases m <;> first | exact .of_opcode rfl rfl | exact fun h => absurd h Bool.false_ne_true

theorem ldy (m : Src) : Statement (.ldy m) := by
  cases m with
  | imm v => exact .of_opcode rfl rfl
  | mem m => cases m <;> first | exact .of_opcode rfl rfl | exact fun h => absurd h Bool.false_ne_true

theorem sta (m : Mem) : Statement (.sta m) := by
  cases m <;> first | exact .of_opcode rfl rfl | exact fun h => absurd h Bool.false_ne_true

theorem stx (m : Mem) : Statement (.stx m) := by
  cases m <;> first | exact .of_opcode rfl rfl | exact fun h => absurd h Bool.false_ne_true

theorem sty (m : Mem) : Statement (.sty m) := by
  cases m <;> first | exact .of_opcode rfl rfl | exact fun h => absurd h Bool.false_ne_true

theorem tax : Statement .tax :=
  .of_opcode rfl rfl

theorem tay : Statement .tay :=
  .of_opcode rfl rfl

theorem txa : Statement .txa :=
  .of_opcode rfl rfl

theorem tya : Statement .tya :=
  .of_opcode rfl rfl

theorem tsx : Statement .tsx :=
  .of_opcode rfl rfl

theorem txs : Statement .txs :=
  .of_opcode rfl rfl

theorem pha : Statement .pha :=
  .of_opcode rfl rfl

theorem php : Statement .php :=
  .of_opcode rfl rfl

theorem pla : Statement .pla :=
  .of_opcode rfl rfl

theorem plp : Statement .plp :=
  .of_opcode rfl rfl

theorem adc (m : Src) : Statement (.adc m) := by
  cases m with
  | imm v => exact .of_opcode rfl rfl
  | mem m => cases m <;> first | exact .of_opcode rfl rfl | exact fun h => absurd h Bool.false_ne_true

theorem sbc (m : Src) : Statement (.sbc m) := by
  cases m with
  | imm v => exact .of_opcode rfl rfl
  | mem m => cases m <;> first | exact .of_opcode rfl rfl | exact fun h => absurd h Bool.false_ne_true

theorem cmp (m : Src) : Statement (.cmp m) := by
  cases m with
  | imm v => exact .of_opcode rfl rfl
  | mem m => cases m <;> first | exact .of_opcode rfl rfl | exact fun h => absurd h Bool.false_ne_true

theorem cpx (m : Src) : Statement (.cpx m) := by
  cases m with
  | imm v => exact .of_opcode rfl rfl
  | mem m => cases m <;> first | exact .of_opcode rfl rfl | exact fun h => absurd h Bool.false_ne_true

theorem cpy (m : Src) : Statement (.cpy m) := by
  cases m with
  | imm v => exact .of_opcode rfl rfl
  | mem m => cases m <;> first | exact .of_opcode rfl rfl | exact fun h => absurd h Bool.false_ne_true

theorem inc (m : RmwMem) : Statement (.inc m) := by
  cases m <;> exact .of_opcode rfl rfl

theorem dec (m : RmwMem) : Statement (.dec m) := by
  cases m <;> exact .of_opcode rfl rfl

theorem inx : Statement .inx :=
  .of_opcode rfl rfl

theorem iny : Statement .iny :=
  .of_opcode rfl rfl

theorem dex : Statement .dex :=
  .of_opcode rfl rfl

theorem dey : Statement .dey :=
  .of_opcode rfl rfl

theorem and (m : Src) : Statement (.and m) := by
  cases m with
  | imm v => exact .of_opcode rfl rfl
  | mem m => cases m <;> first | exact .of_opcode rfl rfl | exact fun h => absurd h Bool.false_ne_true

theorem ora (m : Src) : Statement (.ora m) := by
  cases m with
  | imm v => exact .of_opcode rfl rfl
  | mem m => cases m <;> first | exact .of_opcode rfl rfl | exact fun h => absurd h Bool.false_ne_true

theorem eor (m : Src) : Statement (.eor m) := by
  cases m with
  | imm v => exact .of_opcode rfl rfl
  | mem m => cases m <;> first | exact .of_opcode rfl rfl | exact fun h => absurd h Bool.false_ne_true

theorem bit (m : Mem) : Statement (.bit m) := by
  cases m <;> first | exact .of_opcode rfl rfl | exact fun h => absurd h Bool.false_ne_true

theorem asl (m : Rmw) : Statement (.asl m) := by
  cases m with
  | acc => exact .of_opcode rfl rfl
  | mem m => cases m <;> exact .of_opcode rfl rfl

theorem lsr (m : Rmw) : Statement (.lsr m) := by
  cases m with
  | acc => exact .of_opcode rfl rfl
  | mem m => cases m <;> exact .of_opcode rfl rfl

theorem rol (m : Rmw) : Statement (.rol m) := by
  cases m with
  | acc => exact .of_opcode rfl rfl
  | mem m => cases m <;> exact .of_opcode rfl rfl

theorem ror (m : Rmw) : Statement (.ror m) := by
  cases m with
  | acc => exact .of_opcode rfl rfl
  | mem m => cases m <;> exact .of_opcode rfl rfl

theorem bcc (o : Byte) : Statement (.bcc o) :=
  .of_opcode rfl rfl

theorem bcs (o : Byte) : Statement (.bcs o) :=
  .of_opcode rfl rfl

theorem beq (o : Byte) : Statement (.beq o) :=
  .of_opcode rfl rfl

theorem bne (o : Byte) : Statement (.bne o) :=
  .of_opcode rfl rfl

theorem bmi (o : Byte) : Statement (.bmi o) :=
  .of_opcode rfl rfl

theorem bpl (o : Byte) : Statement (.bpl o) :=
  .of_opcode rfl rfl

theorem bvc (o : Byte) : Statement (.bvc o) :=
  .of_opcode rfl rfl

theorem bvs (o : Byte) : Statement (.bvs o) :=
  .of_opcode rfl rfl

theorem jmp (t : JmpOperand) : Statement (.jmp t) := by
  cases t <;> exact .of_opcode rfl rfl

theorem jsr (target : Word) : Statement (.jsr target) :=
  .of_opcode rfl rfl

theorem rts : Statement .rts :=
  .of_opcode rfl rfl

theorem rti : Statement .rti :=
  .of_opcode rfl rfl

theorem brk (signature : Byte) : Statement (.brk signature) :=
  .of_opcode rfl rfl

theorem clc : Statement .clc :=
  .of_opcode rfl rfl

theorem sec : Statement .sec :=
  .of_opcode rfl rfl

theorem cli : Statement .cli :=
  .of_opcode rfl rfl

theorem sei : Statement .sei :=
  .of_opcode rfl rfl

theorem cld : Statement .cld :=
  .of_opcode rfl rfl

theorem sed : Statement .sed :=
  .of_opcode rfl rfl

theorem clv : Statement .clv :=
  .of_opcode rfl rfl

theorem nop : Statement .nop :=
  .of_opcode rfl rfl

theorem nopImp (op : Byte) : Statement (.nopImp op) :=
  .of_opcode rfl rfl

theorem nopImm (op : Byte) (v : Byte) : Statement (.nopImm op v) :=
  .of_opcode rfl rfl

theorem nopZp (op : Byte) (b : Byte) : Statement (.nopZp op b) :=
  .of_opcode rfl rfl

theorem nopZpx (op : Byte) (b : Byte) : Statement (.nopZpx op b) :=
  .of_opcode rfl rfl

theorem nopAbs (op : Byte) (w : Word) : Statement (.nopAbs op w) :=
  .of_opcode rfl rfl

theorem nopAbsx (op : Byte) (w : Word) : Statement (.nopAbsx op w) :=
  .of_opcode rfl rfl

theorem unrecognized (op : Byte) : Statement (.unrecognized op) :=
  .of_opcode rfl rfl

end Sys2Proof.Laws.OpcodeLeadsEncoding
end

