-- ==== Sys2Proof/Tests/Slice0.lean ====
section
/-!
SUPPORT. The session's own tests. Their expected results are the spec's: the "Operands" and "Encoding" lines of the instruction
rules, opcode_table.json, and the vectors of 95_test_vectors.md, which were calculated from the rules. The witnesses at the end
give a concrete state and operands that meet the hypotheses of each statement that has any.
-/

namespace Sys2Proof.Tests

open Sys2Proof Sys2Proof.Machine

/-! ## Well-formedness: an ill-formed term for each check -/

theorem test_illformed_loads :
    [Instr.lda (.mem (.zpy 0)), .ldx (.mem (.zpx 0)), .ldx (.mem (.indx 0)), .ldy (.mem (.zpy 0)), .ldy (.mem (.absy 0))].all
      (fun i => !i.wellFormed) = true := by decide

theorem test_illformed_stores :
    [Instr.sta (.zpy 0), .stx (.zpx 0), .stx (.absy 0), .sty (.zpy 0), .sty (.absx 0)].all (fun i => !i.wellFormed) = true := by decide

theorem test_illformed_arithmetic :
    [Instr.adc (.mem (.zpy 0)), .sbc (.mem (.zpy 0)), .cmp (.mem (.zpy 0)), .cpx (.mem (.zpx 0)), .cpy (.mem (.absx 0))].all
      (fun i => !i.wellFormed) = true := by decide

theorem test_illformed_logic :
    [Instr.and (.mem (.zpy 0)), .ora (.mem (.zpy 0)), .eor (.mem (.zpy 0)), .bit (.zpx 0), .bit (.absx 0)].all
      (fun i => !i.wellFormed) = true := by decide

theorem test_illformed_opcodes :
    [Instr.nopImp 0xEA, .nopImm 0x1A 0, .nopZp 0x05 0, .nopZpx 0x04 0, .nopAbs 0x1C 0, .nopAbsx 0x0C 0, .unrecognized 0xEA].all
      (fun i => !i.wellFormed) = true := by decide

/-! ## Decoding -/

/-- 42_load_store.md: `101 bbb cc`, bit by bit. -/
theorem test_bits_load_store :
    decode [0b10101001#8, 0b10000000#8] = .ok (.lda (.imm 0x80#8), []) ∧
    decode [0b10110110#8, 0b00000001#8] = .ok (.ldx (.mem (.zpy 0x01#8)), []) ∧
    decode [0b10111100#8, 0b00000010#8, 0b00000001#8] = .ok (.ldy (.mem (.absx 0x0102#16)), []) ∧
    decode [0b10010001#8, 0b01000000#8] = .ok (.sta (.indy 0x40#8), []) := ⟨rfl, rfl, rfl, rfl⟩

/-- 43_transfer_stack.md, bit by bit. -/
theorem test_bits_transfer_stack :
    decode [0b10101010#8] = .ok (.tax, []) ∧ decode [0b10011010#8] = .ok (.txs, []) ∧
    decode [0b00001000#8] = .ok (.php, []) ∧ decode [0b01101000#8, 0b11111111#8] = .ok (.pla, [0xFF#8]) := ⟨rfl, rfl, rfl, rfl⟩

/-- 44_arithmetic.md, bit by bit. -/
theorem test_bits_arithmetic :
    decode [0b01100001#8, 0b11110000#8] = .ok (.adc (.mem (.indx 0xF0#8)), []) ∧
    decode [0b11111001#8, 0b11111111#8, 0b00010010#8] = .ok (.sbc (.mem (.absy 0x12FF#16)), []) ∧
    decode [0b11000100#8, 0b00010000#8] = .ok (.cpy (.mem (.zp 0x10#8)), []) ∧
    decode [0b11110110#8, 0b00010000#8] = .ok (.inc (.zpx 0x10#8), []) := ⟨rfl, rfl, rfl, rfl⟩

/-- 45_logic_shift.md, bit by bit. -/
theorem test_bits_logic_shift :
    decode [0b00101100#8, 0b00000001#8, 0b10000000#8] = .ok (.bit (.abs 0x8001#16), []) ∧
    decode [0b01001010#8] = .ok (.lsr .acc, []) ∧
    decode [0b01111110#8, 0b00000001#8, 0b10000000#8] = .ok (.ror (.mem (.absx 0x8001#16)), []) := ⟨rfl, rfl, rfl⟩

/-- 46_control.md, bit by bit. -/
theorem test_bits_control :
    decode [0b11010000#8, 0b11111110#8] = .ok (.bne 0xFE#8, []) ∧
    decode [0b01101100#8, 0b11111111#8, 0b00010000#8] = .ok (.jmp (.ind 0x10FF#16), []) ∧
    decode [0b00100000#8, 0b00000101#8, 0b00100000#8] = .ok (.jsr 0x2005#16, []) ∧
    decode [0b00000000#8, 0b11101110#8] = .ok (.brk 0xEE#8, []) := ⟨rfl, rfl, rfl, rfl⟩

/-- 47_flags_nop.md, bit by bit. -/
theorem test_bits_flags_nop :
    decode [0b10111000#8] = .ok (.clv, []) ∧ decode [0b11101010#8] = .ok (.nop, []) ∧
    decode [0b01011010#8] = .ok (.nopImp 0x5A#8, []) ∧
    decode [0b00001100#8, 0b00000000#8, 0b11000000#8] = .ok (.nopAbs 0x0C#8 0xC000#16, []) ∧
    decode [0b11111111#8] = .ok (.unrecognized 0xFF#8, []) := ⟨rfl, rfl, rfl, rfl, rfl⟩

theorem test_decode_too_short :
    decode [] = .error .noOpcode ∧ decode [0x4C#8, 0x00#8] = .error (.missingOperand 0x4C#8) ∧
    decode [0x00#8] = .error (.missingOperand 0x00#8) := ⟨rfl, rfl, rfl⟩

/-- Sixteen opcodes from `base` on, with the operand bytes 0x34 and 0x12. The rows below are opcode_table.json's mnemonics and
modes. -/
def decodedRow (base : Byte) : List Instr := (List.range 16).map fun k => decodeOp (base + BitVec.ofNat 8 k) 0x34#8 0x12#8

theorem test_decode_row_0 : decodedRow 0x00 = [
    .brk 0x34, .ora (.mem (.indx 0x34)), .unrecognized 0x02, .unrecognized 0x03, .nopZp 0x04 0x34,
    .ora (.mem (.zp 0x34)), .asl (.mem (.zp 0x34)), .unrecognized 0x07, .php, .ora (.imm 0x34), .asl .acc,
    .unrecognized 0x0B, .nopAbs 0x0C 0x1234, .ora (.mem (.abs 0x1234)), .asl (.mem (.abs 0x1234)),
    .unrecognized 0x0F ] := by decide

theorem test_decode_row_1 : decodedRow 0x10 = [
    .bpl 0x34, .ora (.mem (.indy 0x34)), .unrecognized 0x12, .unrecognized 0x13, .nopZpx 0x14 0x34,
    .ora (.mem (.zpx 0x34)), .asl (.mem (.zpx 0x34)), .unrecognized 0x17, .clc, .ora (.mem (.absy 0x1234)),
    .nopImp 0x1A, .unrecognized 0x1B, .nopAbsx 0x1C 0x1234, .ora (.mem (.absx 0x1234)), .asl (.mem (.absx 0x1234)),
    .unrecognized 0x1F ] := by decide

theorem test_decode_row_2 : decodedRow 0x20 = [
    .jsr 0x1234, .and (.mem (.indx 0x34)), .unrecognized 0x22, .unrecognized 0x23, .bit (.zp 0x34),
    .and (.mem (.zp 0x34)), .rol (.mem (.zp 0x34)), .unrecognized 0x27, .plp, .and (.imm 0x34), .rol .acc,
    .unrecognized 0x2B, .bit (.abs 0x1234), .and (.mem (.abs 0x1234)), .rol (.mem (.abs 0x1234)), .unrecognized 0x2F ] := by decide

theorem test_decode_row_3 : decodedRow 0x30 = [
    .bmi 0x34, .and (.mem (.indy 0x34)), .unrecognized 0x32, .unrecognized 0x33, .nopZpx 0x34 0x34,
    .and (.mem (.zpx 0x34)), .rol (.mem (.zpx 0x34)), .unrecognized 0x37, .sec, .and (.mem (.absy 0x1234)),
    .nopImp 0x3A, .unrecognized 0x3B, .nopAbsx 0x3C 0x1234, .and (.mem (.absx 0x1234)), .rol (.mem (.absx 0x1234)),
    .unrecognized 0x3F ] := by decide

theorem test_decode_row_4 : decodedRow 0x40 = [
    .rti, .eor (.mem (.indx 0x34)), .unrecognized 0x42, .unrecognized 0x43, .nopZp 0x44 0x34, .eor (.mem (.zp 0x34)),
    .lsr (.mem (.zp 0x34)), .unrecognized 0x47, .pha, .eor (.imm 0x34), .lsr .acc, .unrecognized 0x4B,
    .jmp (.abs 0x1234), .eor (.mem (.abs 0x1234)), .lsr (.mem (.abs 0x1234)), .unrecognized 0x4F ] := by decide

theorem test_decode_row_5 : decodedRow 0x50 = [
    .bvc 0x34, .eor (.mem (.indy 0x34)), .unrecognized 0x52, .unrecognized 0x53, .nopZpx 0x54 0x34,
    .eor (.mem (.zpx 0x34)), .lsr (.mem (.zpx 0x34)), .unrecognized 0x57, .cli, .eor (.mem (.absy 0x1234)),
    .nopImp 0x5A, .unrecognized 0x5B, .nopAbsx 0x5C 0x1234, .eor (.mem (.absx 0x1234)), .lsr (.mem (.absx 0x1234)),
    .unrecognized 0x5F ] := by decide

theorem test_decode_row_6 : decodedRow 0x60 = [
    .rts, .adc (.mem (.indx 0x34)), .unrecognized 0x62, .unrecognized 0x63, .nopZp 0x64 0x34, .adc (.mem (.zp 0x34)),
    .ror (.mem (.zp 0x34)), .unrecognized 0x67, .pla, .adc (.imm 0x34), .ror .acc, .unrecognized 0x6B,
    .jmp (.ind 0x1234), .adc (.mem (.abs 0x1234)), .ror (.mem (.abs 0x1234)), .unrecognized 0x6F ] := by decide

theorem test_decode_row_7 : decodedRow 0x70 = [
    .bvs 0x34, .adc (.mem (.indy 0x34)), .unrecognized 0x72, .unrecognized 0x73, .nopZpx 0x74 0x34,
    .adc (.mem (.zpx 0x34)), .ror (.mem (.zpx 0x34)), .unrecognized 0x77, .sei, .adc (.mem (.absy 0x1234)),
    .nopImp 0x7A, .unrecognized 0x7B, .nopAbsx 0x7C 0x1234, .adc (.mem (.absx 0x1234)), .ror (.mem (.absx 0x1234)),
    .unrecognized 0x7F ] := by decide

theorem test_decode_row_8 : decodedRow 0x80 = [
    .nopImm 0x80 0x34, .sta (.indx 0x34), .nopImm 0x82 0x34, .unrecognized 0x83, .sty (.zp 0x34), .sta (.zp 0x34),
    .stx (.zp 0x34), .unrecognized 0x87, .dey, .nopImm 0x89 0x34, .txa, .unrecognized 0x8B, .sty (.abs 0x1234),
    .sta (.abs 0x1234), .stx (.abs 0x1234), .unrecognized 0x8F ] := by decide

theorem test_decode_row_9 : decodedRow 0x90 = [
    .bcc 0x34, .sta (.indy 0x34), .unrecognized 0x92, .unrecognized 0x93, .sty (.zpx 0x34), .sta (.zpx 0x34),
    .stx (.zpy 0x34), .unrecognized 0x97, .tya, .sta (.absy 0x1234), .txs, .unrecognized 0x9B, .unrecognized 0x9C,
    .sta (.absx 0x1234), .unrecognized 0x9E, .unrecognized 0x9F ] := by decide

theorem test_decode_row_A : decodedRow 0xA0 = [
    .ldy (.imm 0x34), .lda (.mem (.indx 0x34)), .ldx (.imm 0x34), .unrecognized 0xA3, .ldy (.mem (.zp 0x34)),
    .lda (.mem (.zp 0x34)), .ldx (.mem (.zp 0x34)), .unrecognized 0xA7, .tay, .lda (.imm 0x34), .tax,
    .unrecognized 0xAB, .ldy (.mem (.abs 0x1234)), .lda (.mem (.abs 0x1234)), .ldx (.mem (.abs 0x1234)),
    .unrecognized 0xAF ] := by decide

theorem test_decode_row_B : decodedRow 0xB0 = [
    .bcs 0x34, .lda (.mem (.indy 0x34)), .unrecognized 0xB2, .unrecognized 0xB3, .ldy (.mem (.zpx 0x34)),
    .lda (.mem (.zpx 0x34)), .ldx (.mem (.zpy 0x34)), .unrecognized 0xB7, .clv, .lda (.mem (.absy 0x1234)), .tsx,
    .unrecognized 0xBB, .ldy (.mem (.absx 0x1234)), .lda (.mem (.absx 0x1234)), .ldx (.mem (.absy 0x1234)),
    .unrecognized 0xBF ] := by decide

theorem test_decode_row_C : decodedRow 0xC0 = [
    .cpy (.imm 0x34), .cmp (.mem (.indx 0x34)), .nopImm 0xC2 0x34, .unrecognized 0xC3, .cpy (.mem (.zp 0x34)),
    .cmp (.mem (.zp 0x34)), .dec (.zp 0x34), .unrecognized 0xC7, .iny, .cmp (.imm 0x34), .dex, .unrecognized 0xCB,
    .cpy (.mem (.abs 0x1234)), .cmp (.mem (.abs 0x1234)), .dec (.abs 0x1234), .unrecognized 0xCF ] := by decide

theorem test_decode_row_D : decodedRow 0xD0 = [
    .bne 0x34, .cmp (.mem (.indy 0x34)), .unrecognized 0xD2, .unrecognized 0xD3, .nopZpx 0xD4 0x34,
    .cmp (.mem (.zpx 0x34)), .dec (.zpx 0x34), .unrecognized 0xD7, .cld, .cmp (.mem (.absy 0x1234)), .nopImp 0xDA,
    .unrecognized 0xDB, .nopAbsx 0xDC 0x1234, .cmp (.mem (.absx 0x1234)), .dec (.absx 0x1234), .unrecognized 0xDF ] := by decide

theorem test_decode_row_E : decodedRow 0xE0 = [
    .cpx (.imm 0x34), .sbc (.mem (.indx 0x34)), .nopImm 0xE2 0x34, .unrecognized 0xE3, .cpx (.mem (.zp 0x34)),
    .sbc (.mem (.zp 0x34)), .inc (.zp 0x34), .unrecognized 0xE7, .inx, .sbc (.imm 0x34), .nop, .unrecognized 0xEB,
    .cpx (.mem (.abs 0x1234)), .sbc (.mem (.abs 0x1234)), .inc (.abs 0x1234), .unrecognized 0xEF ] := by decide

theorem test_decode_row_F : decodedRow 0xF0 = [
    .beq 0x34, .sbc (.mem (.indy 0x34)), .unrecognized 0xF2, .unrecognized 0xF3, .nopZpx 0xF4 0x34,
    .sbc (.mem (.zpx 0x34)), .inc (.zpx 0x34), .unrecognized 0xF7, .sed, .sbc (.mem (.absy 0x1234)), .nopImp 0xFA,
    .unrecognized 0xFB, .nopAbsx 0xFC 0x1234, .sbc (.mem (.absx 0x1234)), .inc (.absx 0x1234), .unrecognized 0xFF ] := by decide

/-- opcode_table.json: `base_cycles`. -/
theorem test_base_cycles : decodeTable.map (·.base) =
  [7, 6, 2, 2, 3, 3, 5, 2, 3, 2, 2, 2, 4, 4, 6, 2] ++
  [2, 5, 2, 2, 4, 4, 6, 2, 2, 4, 2, 2, 4, 4, 7, 2] ++
  [6, 6, 2, 2, 3, 3, 5, 2, 4, 2, 2, 2, 4, 4, 6, 2] ++
  [2, 5, 2, 2, 4, 4, 6, 2, 2, 4, 2, 2, 4, 4, 7, 2] ++
  [6, 6, 2, 2, 3, 3, 5, 2, 3, 2, 2, 2, 3, 4, 6, 2] ++
  [2, 5, 2, 2, 4, 4, 6, 2, 2, 4, 2, 2, 4, 4, 7, 2] ++
  [6, 6, 2, 2, 3, 3, 5, 2, 4, 2, 2, 2, 5, 4, 6, 2] ++
  [2, 5, 2, 2, 4, 4, 6, 2, 2, 4, 2, 2, 4, 4, 7, 2] ++
  [2, 6, 2, 2, 3, 3, 3, 2, 2, 2, 2, 2, 4, 4, 4, 2] ++
  [2, 6, 2, 2, 4, 4, 4, 2, 2, 5, 2, 2, 2, 5, 2, 2] ++
  [2, 6, 2, 2, 3, 3, 3, 2, 2, 2, 2, 2, 4, 4, 4, 2] ++
  [2, 5, 2, 2, 4, 4, 4, 2, 2, 4, 2, 2, 4, 4, 4, 2] ++
  [2, 6, 2, 2, 3, 3, 5, 2, 2, 2, 2, 2, 4, 4, 6, 2] ++
  [2, 5, 2, 2, 4, 4, 6, 2, 2, 4, 2, 2, 4, 4, 7, 2] ++
  [2, 6, 2, 2, 3, 3, 5, 2, 2, 2, 2, 2, 4, 4, 6, 2] ++
  [2, 5, 2, 2, 4, 4, 6, 2, 2, 4, 2, 2, 4, 4, 7, 2] := by decide +kernel

/-- opcode_table.json: `page_cross_penalty`. -/
theorem test_page_cross_flags : (decodeTable.zipIdx.filter (·.1.pageCross)).map (·.2) =
  [0x11, 0x19, 0x1C, 0x1D, 0x31, 0x39, 0x3C, 0x3D, 0x51, 0x59, 0x5C, 0x5D, 0x71, 0x79, 0x7C, 0x7D,
   0xB1, 0xB9, 0xBC, 0xBD, 0xBE, 0xD1, 0xD9, 0xDC, 0xDD, 0xF1, 0xF9, 0xFC, 0xFD] := by decide

/-- opcode_table.json: `branch_penalty`. -/
theorem test_branch_flags : (decodeTable.zipIdx.filter (·.1.branch)).map (·.2) =
  [0x10, 0x30, 0x50, 0x70, 0x90, 0xB0, 0xD0, 0xF0] := by decide

/-- 30_encoding.md R124, R125. -/
theorem test_asm_text :
    asmText 0x0200#16 (.lda (.mem (.indy 0x3F#8))) = "LDA ($3F),Y" ∧ asmText 0x0200#16 (.jmp (.ind 0x10FF#16)) = "JMP ($10FF)" ∧
    asmText 0x0200#16 (.bne 0xFE#8) = "BNE $0200" ∧ asmText 0x0200#16 (.asl .acc) = "ASL A" ∧
    asmText 0x0200#16 (.nopAbsx 0x1C#8 0x1234#16) = "NOP* $1234,X" := by decide

/-! ## One tick -/

/-- The default start state of 95_test_vectors.md. -/
def testStart : State := { State.reset with pc := 0x0200#16, p := 0x20#8 }

/-- `s` with bytes stored in its memory. -/
def placed (s : State) (cells : List (Word × Byte)) : State := cells.foldl (fun s c => s.poke c.1 c.2) s

/-- The writes among the accesses of a tick. -/
def writesOf : List BusAccess → List (Word × Byte)
  | [] => []
  | .read _ _ :: es => writesOf es
  | .write a v :: es => (a, v) :: writesOf es

/-- One tick at the bytes of an instruction: its writes, its result, and a check of the next state. -/
def ticks (s : State) (bytes : List Byte) (cells : List (Word × Byte)) (writes : List (Word × Byte)) (r : TickResult)
    (check : State → Bool) : Bool :=
  match step ((placed s cells).placeBytes s.pc bytes) with
  | .next t => writesOf t.bus == writes && t.result == r && check t
  | _ => false

/-- 95_test_vectors.md V7. -/
theorem test_lda_absx_crosses_a_page :
    ticks { testStart with x := 0x01 } [0xBD, 0xFF, 0x12] [(0x1300, 0x02)] [] ⟨5, 0xBD, true⟩
      (fun t => t.pc == 0x0203 && t.a == 0x02 && t.p == 0x20) = true := by decide

/-- 95_test_vectors.md V13. -/
theorem test_lda_indy_wraps_its_pointer :
    ticks { testStart with y := 0x01 } [0xB1, 0xFF] [(0x0000, 0x20), (0x00FF, 0xFF), (0x2100, 0x33)] [] ⟨6, 0xB1, true⟩
      (fun t => t.pc == 0x0202 && t.a == 0x33 && t.p == 0x20) = true := by decide

/-- 95_test_vectors.md V4. -/
theorem test_ldx_zpy_wraps :
    ticks { testStart with y := 0x01 } [0xB6, 0xFF] [(0x0000, 0x5A)] [] ⟨4, 0xB6, true⟩
      (fun t => t.pc == 0x0202 && t.x == 0x5A && t.p == 0x20) = true := by decide

/-- 95_test_vectors.md V20. -/
theorem test_ldx_absy_crosses_a_page :
    ticks { testStart with y := 0xFF } [0xBE, 0x02, 0x12] [(0x1301, 0x80)] [] ⟨5, 0xBE, true⟩
      (fun t => t.pc == 0x0203 && t.x == 0x80 && t.p == 0xA0) = true := by decide

/-- 95_test_vectors.md V21. -/
theorem test_ldy_zpx :
    ticks { testStart with x := 0x05 } [0xB4, 0x10] [(0x0015, 0xFE)] [] ⟨4, 0xB4, true⟩
      (fun t => t.pc == 0x0202 && t.y == 0xFE && t.p == 0xA0) = true := by decide

/-- 95_test_vectors.md V17. -/
theorem test_sta_absx_has_no_penalty :
    ticks { testStart with a := 0x5A, x := 0x01 } [0x9D, 0xFF, 0x12] [] [(0x1300, 0x5A)] ⟨5, 0x9D, true⟩
      (fun t => t.pc == 0x0203 && t.p == 0x20) = true := by decide

/-- 95_test_vectors.md V22. -/
theorem test_sta_indy_has_no_penalty :
    ticks { testStart with a := 0x77, y := 0x01, p := 0x22 } [0x91, 0x40] [(0x0040, 0xFF), (0x0041, 0x10)] [(0x1100, 0x77)]
      ⟨6, 0x91, true⟩
      (fun t => t.pc == 0x0202 && t.p == 0x22) = true := by decide

/-- 95_test_vectors.md V23. -/
theorem test_stx_zpy_wraps :
    ticks { testStart with x := 0xAB, y := 0x10 } [0x96, 0xF8] [] [(0x0008, 0xAB)] ⟨4, 0x96, true⟩
      (fun t => t.pc == 0x0202 && t.p == 0x20) = true := by decide

/-- 95_test_vectors.md V24. -/
theorem test_sty_abs :
    ticks testStart [0x8C, 0x00, 0x40] [] [(0x4000, 0x00)] ⟨4, 0x8C, true⟩
      (fun t => t.pc == 0x0203 && t.p == 0x20) = true := by decide

/-- 95_test_vectors.md V25. -/
theorem test_tax_sets_z :
    ticks { testStart with x := 0x12 } [0xAA] [] [] ⟨2, 0xAA, true⟩
      (fun t => t.pc == 0x0201 && t.x == 0x00 && t.p == 0x22) = true := by decide

/-- 95_test_vectors.md V26. -/
theorem test_tay_sets_n :
    ticks { testStart with a := 0x80 } [0xA8] [] [] ⟨2, 0xA8, true⟩
      (fun t => t.pc == 0x0201 && t.y == 0x80 && t.p == 0xA0) = true := by decide

/-- 95_test_vectors.md V27. -/
theorem test_txa :
    ticks { testStart with a := 0xFF, x := 0x01, p := 0xA0 } [0x8A] [] [] ⟨2, 0x8A, true⟩
      (fun t => t.pc == 0x0201 && t.a == 0x01 && t.p == 0x20) = true := by decide

/-- 95_test_vectors.md V28. -/
theorem test_tya :
    ticks { testStart with a := 0x01 } [0x98] [] [] ⟨2, 0x98, true⟩
      (fun t => t.pc == 0x0201 && t.a == 0x00 && t.p == 0x22) = true := by decide

/-- 95_test_vectors.md V29. -/
theorem test_tsx :
    ticks testStart [0xBA] [] [] ⟨2, 0xBA, true⟩
      (fun t => t.pc == 0x0201 && t.x == 0xFD && t.p == 0xA0) = true := by decide

/-- 95_test_vectors.md V30. -/
theorem test_txs_writes_no_flag :
    ticks { testStart with p := 0xA0 } [0x9A] [] [] ⟨2, 0x9A, true⟩
      (fun t => t.pc == 0x0201 && t.sp == 0x00 && t.p == 0xA0) = true := by decide

/-- 95_test_vectors.md V31. -/
theorem test_pha_wraps_sp :
    ticks { testStart with a := 0x42, sp := 0x00 } [0x48] [] [(0x0100, 0x42)] ⟨3, 0x48, true⟩
      (fun t => t.pc == 0x0201 && t.sp == 0xFF && t.p == 0x20) = true := by decide

/-- 95_test_vectors.md V32. -/
theorem test_php_pushes_b :
    ticks { testStart with p := 0xE3 } [0x08] [] [(0x01FD, 0xF3)] ⟨3, 0x08, true⟩
      (fun t => t.pc == 0x0201 && t.sp == 0xFC && t.p == 0xE3) = true := by decide

/-- 95_test_vectors.md V33. -/
theorem test_pla_wraps_sp :
    ticks { testStart with sp := 0xFF } [0x68] [(0x0100, 0x00)] [] ⟨4, 0x68, true⟩
      (fun t => t.pc == 0x0201 && t.sp == 0x00 && t.p == 0x22) = true := by decide

/-- 95_test_vectors.md V34. -/
theorem test_plp_forces_bits_4_and_5 :
    ticks { testStart with sp := 0xFC, p := 0xE3 } [0x28] [(0x01FD, 0x10)] [] ⟨4, 0x28, true⟩
      (fun t => t.pc == 0x0201 && t.sp == 0xFD && t.p == 0x20) = true := by decide

/-- 95_test_vectors.md V37. -/
theorem test_adc_overflow :
    ticks { testStart with a := 0x7F, p := 0x21 } [0x69, 0x00] [] [] ⟨2, 0x69, true⟩
      (fun t => t.pc == 0x0202 && t.a == 0x80 && t.p == 0xE0) = true := by decide

/-- 95_test_vectors.md V53. -/
theorem test_adc_decimal_nmos_intermediate :
    ticks { testStart with a := 0x79, p := 0x29, params := { Params.default with decimalNV := .nmosIntermediate } } [0x69, 0x00] [] []
      ⟨2, 0x69, true⟩
      (fun t => t.pc == 0x0202 && t.a == 0x80 && t.p == 0xE8) = true := by decide

/-- 95_test_vectors.md V41. -/
theorem test_sbc_overflow :
    ticks { testStart with a := 0x80, p := 0x21 } [0xE9, 0x01] [] [] ⟨2, 0xE9, true⟩
      (fun t => t.pc == 0x0202 && t.a == 0x7F && t.p == 0x61) = true := by decide

/-- 95_test_vectors.md V50. -/
theorem test_sbc_decimal_with_borrow :
    ticks { testStart with a := 0x40, p := 0x28 } [0xE9, 0x13] [] [] ⟨2, 0xE9, true⟩
      (fun t => t.pc == 0x0202 && t.a == 0x26 && t.p == 0x29) = true := by decide

/-- 95_test_vectors.md V56. -/
theorem test_cmp_less :
    ticks { testStart with p := 0x23 } [0xC9, 0x01] [] [] ⟨2, 0xC9, true⟩
      (fun t => t.pc == 0x0202 && t.p == 0xA0) = true := by decide

/-- 95_test_vectors.md V57. -/
theorem test_cmp_in_decimal_mode :
    ticks { testStart with a := 0x10, p := 0x28 } [0xC9, 0x09] [] [] ⟨2, 0xC9, true⟩
      (fun t => t.pc == 0x0202 && t.p == 0x29) = true := by decide

/-- 95_test_vectors.md V58. -/
theorem test_cpx_greater :
    ticks { testStart with x := 0x80 } [0xE0, 0x00] [] [] ⟨2, 0xE0, true⟩
      (fun t => t.pc == 0x0202 && t.p == 0xA1) = true := by decide

/-- 95_test_vectors.md V59. -/
theorem test_cpy_zp :
    ticks { testStart with y := 0x05 } [0xC4, 0x10] [(0x0010, 0x0A)] [] ⟨3, 0xC4, true⟩
      (fun t => t.pc == 0x0202 && t.p == 0xA0) = true := by decide

/-- 95_test_vectors.md V60. -/
theorem test_inc_zp_wraps :
    ticks { testStart with p := 0x21 } [0xE6, 0x10] [(0x0010, 0xFF)] [(0x0010, 0x00)] ⟨5, 0xE6, true⟩
      (fun t => t.pc == 0x0202 && t.p == 0x23) = true := by decide

/-- 95_test_vectors.md V61. -/
theorem test_inc_absx_has_no_penalty :
    ticks { testStart with x := 0x01 } [0xFE, 0xFF, 0x12] [(0x1300, 0x7F)] [(0x1300, 0x80)] ⟨7, 0xFE, true⟩
      (fun t => t.pc == 0x0203 && t.p == 0xA0) = true := by decide

/-- 95_test_vectors.md V62. -/
theorem test_dec_zp_wraps :
    ticks testStart [0xC6, 0x20] [(0x0020, 0x00)] [(0x0020, 0xFF)] ⟨5, 0xC6, true⟩
      (fun t => t.pc == 0x0202 && t.p == 0xA0) = true := by decide

/-- 95_test_vectors.md V63. -/
theorem test_inx_wraps :
    ticks { testStart with x := 0xFF, p := 0x21 } [0xE8] [] [] ⟨2, 0xE8, true⟩
      (fun t => t.pc == 0x0201 && t.x == 0x00 && t.p == 0x23) = true := by decide

/-- 95_test_vectors.md V64. -/
theorem test_iny_sets_n :
    ticks { testStart with y := 0x7F } [0xC8] [] [] ⟨2, 0xC8, true⟩
      (fun t => t.pc == 0x0201 && t.y == 0x80 && t.p == 0xA0) = true := by decide

/-- 95_test_vectors.md V65. -/
theorem test_dex_wraps :
    ticks testStart [0xCA] [] [] ⟨2, 0xCA, true⟩
      (fun t => t.pc == 0x0201 && t.x == 0xFF && t.p == 0xA0) = true := by decide

/-- 95_test_vectors.md V66. -/
theorem test_dey_to_zero :
    ticks { testStart with y := 0x01 } [0x88] [] [] ⟨2, 0x88, true⟩
      (fun t => t.pc == 0x0201 && t.y == 0x00 && t.p == 0x22) = true := by decide

/-- 95_test_vectors.md V67. -/
theorem test_and_to_zero :
    ticks { testStart with a := 0xF0, p := 0xA0 } [0x29, 0x0F] [] [] ⟨2, 0x29, true⟩
      (fun t => t.pc == 0x0202 && t.a == 0x00 && t.p == 0x22) = true := by decide

/-- 95_test_vectors.md V68. -/
theorem test_ora_indx :
    ticks { testStart with a := 0x01, x := 0x02 } [0x01, 0x10] [(0x0012, 0x00), (0x0013, 0x30), (0x3000, 0x80)] []
      ⟨6, 0x01, true⟩
      (fun t => t.pc == 0x0202 && t.a == 0x81 && t.p == 0xA0) = true := by decide

/-- 95_test_vectors.md V69. -/
theorem test_eor_with_itself :
    ticks { testStart with a := 0xAA } [0x49, 0xAA] [] [] ⟨2, 0x49, true⟩
      (fun t => t.pc == 0x0202 && t.a == 0x00 && t.p == 0x22) = true := by decide

/-- 95_test_vectors.md V70. -/
theorem test_bit_abs :
    ticks { testStart with a := 0x0F, p := 0x21 } [0x2C, 0x00, 0x40] [(0x4000, 0x70)] [] ⟨4, 0x2C, true⟩
      (fun t => t.pc == 0x0203 && t.p == 0x63) = true := by decide

/-- 95_test_vectors.md V71. -/
theorem test_asl_acc :
    ticks { testStart with a := 0x80 } [0x0A] [] [] ⟨2, 0x0A, true⟩
      (fun t => t.pc == 0x0201 && t.a == 0x00 && t.p == 0x23) = true := by decide

/-- 95_test_vectors.md V72. -/
theorem test_asl_absx :
    ticks { testStart with x := 0x02 } [0x1E, 0x00, 0x20] [(0x2002, 0x41)] [(0x2002, 0x82)] ⟨7, 0x1E, true⟩
      (fun t => t.pc == 0x0203 && t.p == 0xA0) = true := by decide

/-- 95_test_vectors.md V73. -/
theorem test_lsr_acc :
    ticks { testStart with a := 0x01, p := 0xA0 } [0x4A] [] [] ⟨2, 0x4A, true⟩
      (fun t => t.pc == 0x0201 && t.a == 0x00 && t.p == 0x23) = true := by decide

/-- 95_test_vectors.md V74. -/
theorem test_rol_acc_takes_the_carry :
    ticks { testStart with a := 0x80, p := 0x21 } [0x2A] [] [] ⟨2, 0x2A, true⟩
      (fun t => t.pc == 0x0201 && t.a == 0x01 && t.p == 0x21) = true := by decide

/-- 95_test_vectors.md V75. -/
theorem test_rol_zp :
    ticks testStart [0x26, 0x30] [(0x0030, 0x7F)] [(0x0030, 0xFE)] ⟨5, 0x26, true⟩
      (fun t => t.pc == 0x0202 && t.p == 0xA0) = true := by decide

/-- 95_test_vectors.md V76. -/
theorem test_ror_acc_takes_the_carry :
    ticks { testStart with p := 0x21 } [0x6A] [] [] ⟨2, 0x6A, true⟩
      (fun t => t.pc == 0x0201 && t.a == 0x80 && t.p == 0xA0) = true := by decide

/-- 95_test_vectors.md V77. -/
theorem test_ror_zpx :
    ticks { testStart with x := 0x01 } [0x76, 0x30] [(0x0031, 0x01)] [(0x0031, 0x00)] ⟨6, 0x76, true⟩
      (fun t => t.pc == 0x0202 && t.p == 0x23) = true := by decide

/-- 95_test_vectors.md V78. -/
theorem test_bcc_taken :
    ticks testStart [0x90, 0x10] [] [] ⟨3, 0x90, true⟩
      (fun t => t.pc == 0x0212 && t.p == 0x20) = true := by decide

/-- 95_test_vectors.md V79. -/
theorem test_bcc_not_taken :
    ticks { testStart with p := 0x21 } [0x90, 0x10] [] [] ⟨2, 0x90, true⟩
      (fun t => t.pc == 0x0202 && t.p == 0x21) = true := by decide

/-- 95_test_vectors.md V86. -/
theorem test_bcs_lowest_offset :
    ticks { testStart with pc := 0x0280, p := 0x21 } [0xB0, 0x80] [] [] ⟨3, 0xB0, true⟩
      (fun t => t.pc == 0x0202 && t.p == 0x21) = true := by decide

/-- 95_test_vectors.md V80. -/
theorem test_beq_to_the_next_page :
    ticks { testStart with pc := 0x02F0, p := 0x22 } [0xF0, 0x20] [] [] ⟨4, 0xF0, true⟩
      (fun t => t.pc == 0x0312 && t.p == 0x22) = true := by decide

/-- 95_test_vectors.md V81. -/
theorem test_bne_to_the_page_before :
    ticks { testStart with pc := 0x0300 } [0xD0, 0xFC] [] [] ⟨4, 0xD0, true⟩
      (fun t => t.pc == 0x02FE && t.p == 0x20) = true := by decide

/-- 95_test_vectors.md V82. -/
theorem test_bmi_offset_zero :
    ticks { testStart with pc := 0x0400, p := 0xA0 } [0x30, 0x00] [] [] ⟨3, 0x30, true⟩
      (fun t => t.pc == 0x0402 && t.p == 0xA0) = true := by decide

/-- 95_test_vectors.md V83. -/
theorem test_bpl_not_taken :
    ticks { testStart with p := 0xA0 } [0x10, 0x05] [] [] ⟨2, 0x10, true⟩
      (fun t => t.pc == 0x0202 && t.p == 0xA0) = true := by decide

/-- 95_test_vectors.md V84. -/
theorem test_bvc_wraps_past_the_top :
    ticks { testStart with pc := 0xFFF0 } [0x50, 0x7F] [] [] ⟨4, 0x50, true⟩
      (fun t => t.pc == 0x0071 && t.p == 0x20) = true := by decide

/-- 95_test_vectors.md V85. -/
theorem test_bvs_wraps_below_zero :
    ticks { testStart with pc := 0x0000, p := 0x60 } [0x70, 0x80] [] [] ⟨4, 0x70, true⟩
      (fun t => t.pc == 0xFF82 && t.p == 0x60) = true := by decide

/-- 95_test_vectors.md V10. -/
theorem test_jmp_ind_stays_in_its_page :
    ticks testStart [0x6C, 0xFF, 0x30] [(0x3000, 0x56), (0x30FF, 0x78), (0x3100, 0x99)] [] ⟨5, 0x6C, true⟩
      (fun t => t.pc == 0x5678 && t.p == 0x20) = true := by decide

/-- 95_test_vectors.md V87. -/
theorem test_jmp_abs :
    ticks testStart [0x4C, 0x00, 0xC0] [] [] ⟨3, 0x4C, true⟩
      (fun t => t.pc == 0xC000 && t.p == 0x20) = true := by decide

/-- 95_test_vectors.md V90. -/
theorem test_jsr_reads_the_byte_it_pushed :
    ticks { testStart with pc := 0x01FB } [0x20, 0x34, 0x12] [] [(0x01FD, 0x01), (0x01FC, 0xFD)] ⟨6, 0x20, true⟩
      (fun t => t.pc == 0x0134 && t.sp == 0xFB && t.p == 0x20) = true := by decide

/-- 95_test_vectors.md V91. -/
theorem test_rts_wraps :
    ticks { testStart with sp := 0xFB } [0x60] [(0x01FC, 0xFF), (0x01FD, 0xFF)] [] ⟨6, 0x60, true⟩
      (fun t => t.pc == 0x0000 && t.sp == 0xFD && t.p == 0x20) = true := by decide

/-- 95_test_vectors.md V92. -/
theorem test_rti_adds_no_one :
    ticks { testStart with sp := 0xFA, p := 0x24 } [0x40] [(0x01FB, 0xD3), (0x01FC, 0x34), (0x01FD, 0x12)] []
      ⟨6, 0x40, true⟩
      (fun t => t.pc == 0x1234 && t.sp == 0xFD && t.p == 0xE3) = true := by decide

/-- 95_test_vectors.md V93. -/
theorem test_brk_ignores_i :
    ticks { testStart with p := 0x24 } [0x00, 0xEE] [(0xFFFE, 0x00), (0xFFFF, 0x90)] [(0x01FD, 0x02), (0x01FC, 0x02), (0x01FB, 0x34)]
      ⟨7, 0x00, true⟩
      (fun t => t.pc == 0x9000 && t.sp == 0xFA && t.p == 0x24) = true := by decide

/-- 95_test_vectors.md V95. -/
theorem test_clc :
    ticks { testStart with p := 0x21 } [0x18] [] [] ⟨2, 0x18, true⟩
      (fun t => t.pc == 0x0201 && t.p == 0x20) = true := by decide

/-- 95_test_vectors.md V96. -/
theorem test_sec :
    ticks testStart [0x38] [] [] ⟨2, 0x38, true⟩
      (fun t => t.pc == 0x0201 && t.p == 0x21) = true := by decide

/-- 95_test_vectors.md V97. -/
theorem test_cli :
    ticks { testStart with p := 0x24 } [0x58] [] [] ⟨2, 0x58, true⟩
      (fun t => t.pc == 0x0201 && t.p == 0x20) = true := by decide

/-- 95_test_vectors.md V98. -/
theorem test_sei :
    ticks testStart [0x78] [] [] ⟨2, 0x78, true⟩
      (fun t => t.pc == 0x0201 && t.p == 0x24) = true := by decide

/-- 95_test_vectors.md V99. -/
theorem test_cld :
    ticks { testStart with p := 0x28 } [0xD8] [] [] ⟨2, 0xD8, true⟩
      (fun t => t.pc == 0x0201 && t.p == 0x20) = true := by decide

/-- 95_test_vectors.md V100. -/
theorem test_sed :
    ticks testStart [0xF8] [] [] ⟨2, 0xF8, true⟩
      (fun t => t.pc == 0x0201 && t.p == 0x28) = true := by decide

/-- 95_test_vectors.md V101. -/
theorem test_clv :
    ticks { testStart with p := 0x60 } [0xB8] [] [] ⟨2, 0xB8, true⟩
      (fun t => t.pc == 0x0201 && t.p == 0x20) = true := by decide

/-- 95_test_vectors.md V102. -/
theorem test_nop :
    ticks testStart [0xEA] [] [] ⟨2, 0xEA, true⟩
      (fun t => t.pc == 0x0201 && t.p == 0x20) = true := by decide

/-- 95_test_vectors.md V103. -/
theorem test_nop_imp :
    ticks testStart [0x1A] [] [] ⟨2, 0x1A, true⟩
      (fun t => t.pc == 0x0201 && t.p == 0x20) = true := by decide

/-- 95_test_vectors.md V104. -/
theorem test_nop_imm :
    ticks testStart [0x80, 0xFF] [] [] ⟨2, 0x80, true⟩
      (fun t => t.pc == 0x0202 && t.p == 0x20) = true := by decide

/-- 95_test_vectors.md V105. -/
theorem test_nop_zp :
    ticks testStart [0x04, 0x10] [] [] ⟨3, 0x04, true⟩
      (fun t => t.pc == 0x0202 && t.p == 0x20) = true := by decide

/-- 95_test_vectors.md V106. -/
theorem test_nop_zpx :
    ticks { testStart with x := 0x01 } [0x14, 0x10] [] [] ⟨4, 0x14, true⟩
      (fun t => t.pc == 0x0202 && t.p == 0x20) = true := by decide

/-- 95_test_vectors.md V107. -/
theorem test_nop_abs :
    ticks testStart [0x0C, 0x00, 0xC0] [] [] ⟨4, 0x0C, true⟩
      (fun t => t.pc == 0x0203 && t.p == 0x20) = true := by decide

/-- 95_test_vectors.md V108. -/
theorem test_nop_absx_crosses_a_page :
    ticks { testStart with x := 0x01 } [0x1C, 0xFF, 0x12] [] [] ⟨5, 0x1C, true⟩
      (fun t => t.pc == 0x0203 && t.p == 0x20) = true := by decide

/-- 95_test_vectors.md V109. -/
theorem test_nop_absx :
    ticks { testStart with x := 0x01 } [0xFC, 0x00, 0x12] [] [] ⟨4, 0xFC, true⟩
      (fun t => t.pc == 0x0203 && t.p == 0x20) = true := by decide

/-- 95_test_vectors.md V110. -/
theorem test_unrecognized_advances :
    ticks { testStart with a := 0x11 } [0x02] [] [] ⟨2, 0x02, false⟩
      (fun t => t.pc == 0x0201 && t.p == 0x20) = true := by decide

/-- 95_test_vectors.md V111. -/
theorem test_unrecognized_stays :
    ticks { testStart with a := 0x11, params := { Params.default with unrecognizedAdvance := false } } [0xFF] [] []
      ⟨2, 0xFF, false⟩
      (fun t => t.pc == 0x0200 && t.p == 0x20) = true := by decide

/-- 95_test_vectors.md V16: the accesses of a read-modify-write, in order. -/
theorem test_bus_of_inc_zp :
    ticks testStart [0xE6, 0x10] [(0x0010, 0x41)] [(0x0010, 0x42)] ⟨5, 0xE6, true⟩
      (fun t => t.bus == [.read 0x0200 0xE6, .read 0x0201 0x10, .read 0x0010 0x41, .write 0x0010 0x42]) = true := by decide

/-- 95_test_vectors.md S1: the accesses of JMP through 0x10FF. -/
theorem test_bus_of_jmp_ind :
    ticks { testStart with pc := 0x0300 } [0x6C, 0xFF, 0x10] [(0x10FF, 0x00), (0x1000, 0x40), (0x1100, 0x55)] [] ⟨5, 0x6C, true⟩
      (fun t => t.pc == 0x4000 && t.bus == [.read 0x0300 0x6C, .read 0x0301 0xFF, .read 0x0302 0x10, .read 0x10FF 0x00,
        .read 0x1000 0x40]) = true := by decide

/-- One tick of a sequence, whose `opcode_observed` is any byte. -/
def serves (s : State) (cells : List (Word × Byte)) (writes : List (Word × Byte)) (check : State → Bool) : Bool :=
  match step (placed s cells) with
  | .next t => writesOf t.bus == writes && t.result.cyclesConsumed == 7 && t.result.recognized && check t
  | _ => false

/-- 95_test_vectors.md V112. -/
theorem test_irq_sequence :
    serves (testStart.hostIrqSet true) [(0xFFFF, 0x90)] [(0x01FD, 0x02), (0x01FC, 0x00), (0x01FB, 0x20)]
      (fun t => t.pc == 0x9000 && t.sp == 0xFA && t.p == 0x24 && !t.irqPending) = true := by decide

/-- 95_test_vectors.md V113. -/
theorem test_irq_masked :
    ticks { testStart with p := 0x24, irqPending := true } [0xEA] [] [] ⟨2, 0xEA, true⟩
      (fun t => t.pc == 0x0201 && t.irqPending) = true := by decide

/-- 95_test_vectors.md V114. -/
theorem test_nmi_sequence :
    serves { testStart with p := 0xE7, nmiPending := true, irqPending := true } [(0xFFFB, 0x80)]
      [(0x01FD, 0x02), (0x01FC, 0x00), (0x01FB, 0xE7)]
      (fun t => t.pc == 0x8000 && t.sp == 0xFA && t.p == 0xE7 && !t.nmiPending && t.irqPending) = true := by decide

/-- 95_test_vectors.md V116: A, X, Y, N, V, Z, C are any. -/
theorem test_reset_sequence :
    serves { testStart with sp := 0x40, p := 0x2C, resetPending := true, nmiPending := true, irqPending := true } [(0xFFFD, 0x02)] []
      (fun t => t.pc == 0x0200 && t.sp == 0x3D && !t.resetPending && !t.nmiPending && !t.irqPending &&
        t.bus == [.read 0xFFFC 0x00, .read 0xFFFD 0x02]) = true := by decide

/-- 95_test_vectors.md V122. -/
theorem test_reset_force_fd :
    serves { testStart with sp := 0xF0, resetPending := true, params := { Params.default with resetSP := .forceFD } } [] []
      (fun t => t.sp == 0xFD) = true := by decide

/-- 95_test_vectors.md V119. -/
theorem test_tick_before_reset : step (State.construct [] [] Params.default 0) = .refused .tickBeforeReset := rfl

/-- The tick after reset runs the instruction that `withFetchWord` places: `LDA #$80` of opcode_table.json. -/
theorem test_with_fetch_word :
    (match step (State.reset.withFetchWord 16 0x80A9) with | .next t => t.a == 0x80 && t.pc == 0x0002 | _ => false) = true ∧
    decodeTableWord 16 0x80A9 = some (.lda (.imm 0x80#8)) := ⟨by decide, rfl⟩

/-- The mutator normalises P (60_exceptions.md R321). -/
theorem test_mutate_p : (State.reset.mutate (.p 0x3F#8)).p = 0x2F#8 ∧ (State.reset.mutate (.p 0x00#8)).p = 0x20#8 := by decide

/-- An address the host has not declared plain memory: the read is made and its byte is any (20_memory.md R101). -/
theorem test_oracle_read :
    let s := { testStart with oracle := [⟨0xD000, 0x100⟩] }
    s.plain 0xD0FF#16 = false ∧ s.plain 0xD100#16 = true ∧ s.plain 0xCFFF#16 = true ∧
    (s.memRead 0xD000#16).1 = Config.freeByte 0 ∧ (s.memWrite 0xD000#16 0x55#8).mem = [] := ⟨rfl, rfl, rfl, rfl, rfl⟩

/-! ## Witnesses: states and operands that meet the hypotheses of the statements -/

theorem witness_DecodeAfterEncode : (Instr.lda (.imm 0x80#8)).wellFormed = true ∧ (Instr.unrecognized 0xFF#8).wellFormed = true := by decide

theorem witness_EncodeAfterDecode : decode [0x6C#8, 0xFF#8, 0x10#8, 0xEA#8] = .ok (.jmp (.ind 0x10FF#16), [0xEA#8]) := rfl

/-- The shortest list that is long enough for JMP, and the longest that is too short. -/
theorem witness_EveryOpcodeByteDecodes :
    (decodeOp 0x4C#8 0#8 0#8).length = [0x00#8, 0x00#8].length + 1 ∧ [0x00#8].length + 1 < (decodeOp 0x4C#8 0#8 0#8).length := by decide

/-- An instruction at the top of memory, whose operand bytes wrap to 0x0000. -/
theorem witness_StepRunsTheDecodedInstruction :
    let s := ({ testStart with pc := 0xFFFF#16 }).placeBytes 0xFFFF#16 [0xAD#8, 0x34#8, 0x12#8]
    s.tickAllowed ∧ s.poll = none ∧
    decode [s.mem.peek s.pc.toNat, s.mem.peek (s.pc + 1#16).toNat, s.mem.peek (s.pc + 2#16).toNat] =
      .ok (.lda (.mem (.abs 0x1234#16)), []) ∧
    (∀ k, k ≤ (Instr.lda (.mem (.abs 0x1234#16))).fetches → s.plain (s.pc + BitVec.ofNat 16 k) = true) :=
  ⟨.inl rfl, rfl, rfl, fun _ _ => rfl⟩

/-- Every fetched byte plain, with the operand bytes across the top of memory, and an address on the same bus that is not. -/
theorem witness_FetchReadsTheInstructionBytes :
    let s := ({ testStart with pc := 0xFFFE#16, oracle := [⟨0xD000, 0x100⟩] }).placeBytes 0xFFFE#16 [0xAD#8, 0x34#8, 0x12#8]
    s.fetchInstr.1 = .lda (.mem (.abs 0x1234#16)) ∧ s.plain (s.pc + 0#16) = true ∧ s.plain (s.pc + 1#16) = true ∧
      s.plain (s.pc + 2#16) = true ∧ s.plain 0xD000#16 = false := by decide

theorem witness_OnlyATickBeforeResetIsRefused :
    ((State.construct [] [] Params.default 0).started = false ∧ (State.construct [] [] Params.default 0).resetPending = false) ∧
    State.reset.tickAllowed ∧ (State.construct [] [] Params.default 0).hostReset.tickAllowed := ⟨⟨rfl, rfl⟩, .inl rfl, .inr rfl⟩

/-- NMI and IRQ pending together, and each source alone. -/
theorem witness_PollChoosesTheHighestSource :
    let s := testStart.hostNmi.hostIrqSet true
    s.started = true ∧ s.poll = some .nmi ∧ s.hostReset.poll = some .reset ∧ (testStart.hostIrqSet true).poll = some .irq ∧
      (State.reset.hostIrqSet true).poll = none := by decide

theorem witness_NmiSequence :
    let s := testStart.hostNmi
    s.started = true ∧ s.resetPending = false ∧ s.nmiPending = true := by decide

/-- Under both settings of `P_IRQ_CLEAR_ON_SERVICE`. -/
theorem witness_IrqSequence : ∀ clear : Bool,
    let s := { testStart.hostIrqSet true with params := { Params.default with irqClearOnService := clear } }
    s.started = true ∧ s.resetPending = false ∧ s.nmiPending = false ∧ s.irqPending = true ∧ s.flag .i = false := by decide

/-- From construction and after a run, with the vector in plain memory. -/
theorem witness_ResetSequence :
    (State.construct [] [] Params.default 0).hostReset.resetPending = true ∧ testStart.hostReset.resetPending = true ∧
      testStart.hostReset.plain 0xFFFC#16 = true ∧ testStart.hostReset.plain 0xFFFD#16 = true := ⟨rfl, rfl, rfl, rfl⟩

theorem witness_MaskChangesActAtTheNextPoll :
    let s := State.reset.hostIrqSet true
    s.resetPending = false ∧ s.nmiPending = false ∧ s.irqPending = true := by decide

theorem witness_EveryTickKeepsLegality : ∃ t, testStart.legal ∧ step testStart = .next t := ⟨_, ⟨⟨rfl, rfl⟩, rfl⟩, rfl⟩

theorem witness_EveryHostRunIsLegal :
    ∃ t, Memory.wf [(0xFFFD, 0x02#8)] = true ∧
      runHost [.call .reset, .tick] (State.construct [(0xFFFD, 0x02#8)] [] Params.default 0) = .next t := ⟨_, rfl, rfl⟩

theorem witness_EveryInstructionCompletes :
    (Instr.unrecognized 0x02#8).opcode? = some 0x02#8 ∧
      ({ testStart with result := ⟨0, 0x02#8, true⟩ }).result.opcodeObserved = 0x02#8 := ⟨rfl, rfl⟩

/-- An instruction that stores nothing and does not move PC, and one that does both. -/
theorem witness_WhoWritesWhat :
    (∃ t, exec .tax testStart = .next t) ∧ Instr.tax.stores = false ∧ Instr.tax.movesPc = false ∧ testStart.pLegal ∧
      Flag.c ∉ Instr.tax.flagsWritten ∧ (∃ t, exec (.jsr 0x1234#16) testStart = .next t) :=
  ⟨⟨_, rfl⟩, rfl, rfl, ⟨rfl, rfl⟩, by decide, ⟨_, rfl⟩⟩

/-- The addresses JSR stores to: every other byte meets the premise of the memory clause. -/
theorem witness_WhoWritesWhat_storing : (Instr.jsr 0x1234#16).storedAt testStart = [0x01FD#16, 0x01FC#16] := by decide +kernel

theorem witness_DecimalModeAffectsOnlyAdcAndSbc :
    (∀ m, Instr.cmp (.imm 0x09#8) ≠ .adc m) ∧ (∀ m, Instr.cmp (.imm 0x09#8) ≠ .sbc m) ∧
      (∃ t, exec (.cmp (.imm 0x09#8)) testStart = .next t) ∧ (∃ t, exec (.cmp (.imm 0x09#8)) (testStart.setFlag .d true) = .next t) ∧
      Instr.cmp (.imm 0x09#8) ≠ .php ∧ ∀ b, Instr.cmp (.imm 0x09#8) ≠ .brk b :=
  ⟨by simp, by simp, ⟨_, rfl⟩, ⟨_, rfl⟩, by simp, by simp⟩

/-- Pointers at 0xFF, whose high byte is at 0x00, in plain memory. -/
theorem witness_IndirectAddresses :
    let s := { testStart with x := 0x0F#8 }
    s.plain (zext16 (0xF0#8 + s.x)) = true ∧ s.plain (zext16 (0xF0#8 + s.x + 1#8)) = true ∧ 0xF0#8 + s.x = 0xFF#8 ∧
      s.plain (zext16 0xFF#8) = true ∧ s.plain (zext16 (0xFF#8 + 1#8)) = true := by decide

theorem witness_LoadReadsTheOperand : testStart.plain ((Mem.abs 0xFFFF#16).resolve testStart).1 = true := by decide

/-- With SP = 0x00, where a push wraps. -/
theorem witness_PushAndPull :
    let s := { testStart with sp := 0x00#8 }
    s.mem.wf = true ∧ s.plain (stackAddr s.sp) = true ∧ s.plain (stackAddr (s.sp + 1#8)) = true := by decide

/-- A plain address, another one, and an address that is not plain. -/
theorem witness_PlainMemoryReadsBackWrites :
    let s := { testStart with oracle := [⟨0xD000, 0x100⟩] }
    s.mem.wf = true ∧ s.plain 0x0000#16 = true ∧ (0xFFFF#16 : Word) ≠ 0x0000#16 ∧ s.plain 0xFFFF#16 = true ∧
      s.plain 0xD000#16 = false := by decide

theorem witness_PushThenPullRestores : State.reset.legal ∧ State.reset.plain (stackAddr State.reset.sp) = true := ⟨⟨⟨rfl, rfl⟩, rfl⟩, rfl⟩

/-- With SP = 0x00, so that the second byte goes to 0x01FF. -/
theorem witness_CallThenReturn :
    let s := { testStart with sp := 0x00#8 }
    s.mem.wf = true ∧ s.plain (stackAddr s.sp) = true ∧ s.plain (stackAddr (s.sp - 1#8)) = true := by decide

theorem witness_EntryThenReturn :
    State.reset.legal ∧ State.reset.plain (stackAddr State.reset.sp) = true ∧
      State.reset.plain (stackAddr (State.reset.sp - 1#8)) = true ∧ State.reset.plain (stackAddr (State.reset.sp - 2#8)) = true :=
  ⟨⟨⟨rfl, rfl⟩, rfl⟩, rfl, rfl, rfl⟩

/-- The stored byte of STA, in canonical plain memory: the `Holds` clauses are met. -/
theorem witness_StoresWriteOneByte : testStart.mem.wf = true ∧ testStart.plain ((Mem.absx 0xFFFF#16).resolve testStart).1 = true := by decide

theorem witness_PullsLoadOneByte : testStart.plain (stackAddr (testStart.sp + 1#8)) = true := by decide

theorem witness_AdcBinarySum : testStart.flag .d = false := by decide

/-- Under both settings of `P_DECIMAL_NV`. -/
theorem witness_AdcDecimalDigitsAndFlags : ∀ b : Bool,
    let nv := if b then DecimalNV.binary else DecimalNV.nmosIntermediate
    let s := { testStart with p := 0x28#8, params := { Params.default with decimalNV := nv } }
    s.flag .d = true ∧ s.params.decimalNV = nv := by decide

/-- In both modes. -/
theorem witness_SbcInBothModes : testStart.flag .d = false ∧ (testStart.setFlag .d true).flag .d = true := by decide

theorem witness_DecimalDigitsAreDecimal : validBcd 0x99#8 ∧ validBcd 0x00#8 := by unfold validBcd; decide

theorem witness_SbcUndoesAdcOnBcd :
    let s := { testStart with a := 0x99#8, p := 0x28#8 }
    s.flag .d = true ∧ validBcd s.a ∧ validBcd 0x01#8 := by unfold validBcd; decide

/-- The read and the stored byte of a read-modify-write at 0xFFFF. -/
theorem witness_RmwMemory :
    testStart.mem.wf = true ∧ testStart.plain ((RmwMem.absx 0xFFFF#16).toMem.resolve testStart).1 = true := by decide

/-- A branch taken to the same page, one to another page, and one not taken. -/
theorem witness_BranchesFollowTheirFlag :
    (!testStart.flag .c) = true ∧ hi8 (branchTarget 0x0202#16 0x7F#8) = hi8 0x0202#16 ∧
      hi8 (branchTarget 0x0202#16 0x80#8) ≠ hi8 0x0202#16 ∧ testStart.flag .c = false := by decide

theorem witness_JmpGoesToItsTarget : testStart.plain 0x10FF#16 = true ∧ testStart.plain (wordOf (lo8 0x10FF#16 + 1#8) (hi8 0x10FF#16)) = true := by decide

theorem witness_JsrTickReachesItsTarget :
    let s := testStart.placeBytes 0x0200#16 [0x20#8, 0x34#8, 0x12#8]
    s.tickAllowed ∧ s.poll = none ∧ s.oracle = [] ∧ s.mem.peek s.pc.toNat = 0x20#8 ∧
    s.mem.peek (s.pc + 1#16).toNat = lo8 0x1234#16 ∧ s.mem.peek (s.pc + 2#16).toNat = hi8 0x1234#16 ∧
    s.pc + 2#16 ≠ stackAddr s.sp ∧ s.pc + 2#16 ≠ stackAddr (s.sp - 1#8) :=
  ⟨.inl rfl, by decide⟩

/-- PC, the pulled bytes and the vector of JSR, RTS, RTI and BRK in plain canonical memory. -/
theorem witness_JsrRtsRtiBrk :
    let s := { testStart with sp := 0xFC#8 }
    s.mem.wf = true ∧ s.plain s.pc = true ∧ s.plain (stackAddr s.sp) = true ∧ s.plain (stackAddr (s.sp - 1#8)) = true ∧
    s.plain (stackAddr (s.sp - 2#8)) = true ∧ s.plain (stackAddr (s.sp + 1#8)) = true ∧
    s.plain (stackAddr (s.sp + 2#8)) = true ∧ s.plain (stackAddr (s.sp + 3#8)) = true ∧
    s.plain 0xFFFE#16 = true ∧ s.plain 0xFFFF#16 = true := by decide

/-- X does and does not carry out of the low byte. -/
theorem witness_NopsOnlyAdvance : 256 ≤ (0x12FF#16).toNat % 256 + (0x01#8).toNat ∧ ¬ 256 ≤ (0x12FE#16).toNat % 256 + (0x01#8).toNat := by decide

/-- Under both settings of `P_UNRECOGNIZED_ADVANCE`. -/
theorem witness_UnrecognizedOpcodesAreReported : ∀ advance : Bool,
    ({ testStart with params := { Params.default with unrecognizedAdvance := advance } }).params.unrecognizedAdvance = advance := by
  decide

/-- The two ends of the range, and the first distance outside each. -/
theorem witness_AssembledBranchReachesItsTarget :
    branchOffset 0x0200#16 0x0281#16 = some 0x7F#8 ∧ branchOffset 0x0200#16 0x0182#16 = some 0x80#8 ∧
      branchOffset 0x0200#16 0x0282#16 = none ∧ branchOffset 0x0200#16 0x0181#16 = none := by decide

end Sys2Proof.Tests
end

/-! # The state family: legal states, and who writes what (10_state.md R50 to R65)

Every instruction is a chain of shared operations. `WritesOnly w s t` says that the way from `s` to `t` stays inside the
footprint `w`. Each operation extends such a way by one step when what it writes is in `w`, so that the proof for an
instruction is the chain of its operations in the order in which its meaning runs them. -/

namespace Sys2Proof

open Machine

/-- What a piece of a tick may write: 8-bit registers, flags, bytes of memory, PC. -/
structure Footprint where
  regs : List Reg
  flags : List Flag
  stored : List Word
  movesPc : Bool

/-- The row of an instruction in 10_state.md R64, in the state its fetch leaves. -/
def Instr.footprint (i : Instr) (s : State) : Footprint := ⟨i.regsWritten, i.flagsWritten, i.storedAt s, i.movesPc⟩

/-- The rows of `Instr.stores` and `Instr.storedAt` agree. -/
theorem Instr.storedAt_of_not_stores {i : Instr} (h : i.stores = false) (s : State) : i.storedAt s = [] := by
  have hs : i.stored = .nothing := by simpa [Instr.stores] using h
  simp [Instr.storedAt, hs]

end Sys2Proof

namespace Sys2Proof.Machine

/-- From `s` to `t` nothing outside `w` is written, and live P and the canonical form of memory stay legal. By default each
part is what the field lemmas of an operation that does not touch it say. -/
structure WritesOnly (w : Footprint) (s t : State) : Prop where
  regs : RegsKept s t w.regs := by exact .of_reads (.inr (by simp)) (.inr (by simp)) (.inr (by simp)) (.inr (by simp))
  flags : ∀ f, f ∉ w.flags → t.flag f = s.flag f := by intro f _; simp
  pLegal : s.pLegal → t.pLegal := by simp [State.pLegal]
  rest : RestKept s t := by simp [RestKept]
  memory : MemKeptBut s t w.stored := by intro k _; simp
  memoryEq : w.stored = [] → t.mem = s.mem := by simp
  wf : s.mem.wf = true → t.mem.wf = true := by simp
  pc : w.movesPc = false → t.pc = s.pc := by simp

namespace WritesOnly

variable {w : Footprint} {s t u : State}

theorem refl : WritesOnly w s s where

theorem trans (h : WritesOnly w s t) (h' : WritesOnly w t u) : WritesOnly w s u where
  regs r hr := (h'.regs r hr).trans (h.regs r hr)
  flags f hf := (h'.flags f hf).trans (h.flags f hf)
  pLegal := h'.pLegal ∘ h.pLegal
  rest := by
    obtain ⟨r1, r2, r3, r4, r5, r6⟩ := h.rest
    obtain ⟨q1, q2, q3, q4, q5, q6⟩ := h'.rest
    exact ⟨q1.trans r1, q2.trans r2, q3.trans r3, q4.trans r4, q5.trans r5, q6.trans r6⟩
  memory k hk := (h'.memory k hk).trans (h.memory k hk)
  memoryEq e := (h'.memoryEq e).trans (h.memoryEq e)
  wf := h'.wf ∘ h.wf
  pc e := (h'.pc e).trans (h.pc e)

theorem legal (h : WritesOnly w s t) (hs : s.legal) : t.legal := ⟨h.pLegal hs.1, h.wf hs.2⟩

/-! ### Operations that write nothing of the footprint -/

theorem finish (h : WritesOnly w s t) {n : Nat} : WritesOnly w s (t.finish n) := h.trans {}

theorem memRead (h : WritesOnly w s t) (a : Word) : WritesOnly w s (t.memRead a).2 := h.trans {}

theorem resolve (h : WritesOnly w s t) (m : Mem) : WritesOnly w s (m.resolve t).2.2 := h.trans {}

theorem load (h : WritesOnly w s t) (m : Src) : WritesOnly w s (m.load t).2.2 := h.trans {}

theorem jmpResolve (h : WritesOnly w s t) (m : JmpOperand) : WritesOnly w s (m.resolve t).2 := h.trans {}

/-! ### Operations that write one part of the footprint -/

theorem setA (h : WritesOnly w s t) {v : Byte} (hr : .a ∈ w.regs := by simp [Instr.footprint, Instr.regsWritten]) :
    WritesOnly w s { t with a := v } :=
  h.trans { regs := .of_reads (.inl hr) (.inr rfl) (.inr rfl) (.inr rfl), flags := fun _ _ => rfl }

theorem setX (h : WritesOnly w s t) {v : Byte} (hr : .x ∈ w.regs := by simp [Instr.footprint, Instr.regsWritten]) :
    WritesOnly w s { t with x := v } :=
  h.trans { regs := .of_reads (.inr rfl) (.inl hr) (.inr rfl) (.inr rfl), flags := fun _ _ => rfl }

theorem setY (h : WritesOnly w s t) {v : Byte} (hr : .y ∈ w.regs := by simp [Instr.footprint, Instr.regsWritten]) :
    WritesOnly w s { t with y := v } :=
  h.trans { regs := .of_reads (.inr rfl) (.inr rfl) (.inl hr) (.inr rfl), flags := fun _ _ => rfl }

theorem setSp (h : WritesOnly w s t) {v : Byte} (hr : .sp ∈ w.regs := by simp [Instr.footprint, Instr.regsWritten]) :
    WritesOnly w s { t with sp := v } :=
  h.trans { regs := .of_reads (.inr rfl) (.inr rfl) (.inr rfl) (.inl hr), flags := fun _ _ => rfl }

theorem setPc (h : WritesOnly w s t) {v : Word} (hpc : w.movesPc = true := by rfl) : WritesOnly w s { t with pc := v } :=
  h.trans { flags := fun _ _ => rfl, pc := by simp [hpc] }

theorem setResult (h : WritesOnly w s t) {r : TickResult} : WritesOnly w s { t with result := r } :=
  h.trans { flags := fun _ _ => rfl }

/-- No flag is bit 4 or 5 of P, so writing one keeps live P legal. -/
theorem setFlag (h : WritesOnly w s t) {f : Flag} {b : Bool}
    (hf : f ∈ w.flags := by simp [Instr.footprint, Instr.flagsWritten]) : WritesOnly w s (t.setFlag f b) :=
  h.trans {
    flags := fun g hg => by rw [State.setFlag_flag, if_neg (ne_of_mem_of_not_mem hf hg).symm]
    pLegal := by cases f <;> simp [State.pLegal, Flag.bit] }

/-- A byte written to P is normalised (10_state.md R57), so live P is legal after it. -/
theorem setP (h : WritesOnly w s t) {v : Byte} (hf : ∀ f, f ∈ w.flags) : WritesOnly w s { t with p := normP v } :=
  h.trans { flags := fun f hn => absurd (hf f) hn, pLegal := fun _ => ⟨normP_bit5 v, normP_bit4 v⟩ }

theorem memWrite (h : WritesOnly w s t) {a : Word} {v : Byte} (ha : a ∈ w.stored) : WritesOnly w s (t.memWrite a v) :=
  h.trans {
    memory := fun _ hk => State.memWrite_peek_ne t v (hk a ha)
    memoryEq := fun e => absurd ha (by simp [e])
    wf := fun hw => State.memWrite_wf hw a v }

/-! ### Operations made of these -/

theorem setNZ (h : WritesOnly w s t) {r : Byte} (hn : .n ∈ w.flags := by simp [Instr.footprint, Instr.flagsWritten])
    (hz : .z ∈ w.flags := by simp [Instr.footprint, Instr.flagsWritten]) : WritesOnly w s (t.setNZ r) :=
  (h.setFlag hn).setFlag hz

theorem setNZC (h : WritesOnly w s t) {r : AluResult} (hn : .n ∈ w.flags := by simp [Instr.footprint, Instr.flagsWritten])
    (hz : .z ∈ w.flags := by simp [Instr.footprint, Instr.flagsWritten])
    (hc : .c ∈ w.flags := by simp [Instr.footprint, Instr.flagsWritten]) : WritesOnly w s (t.setNZC r) :=
  ((h.setFlag hn).setFlag hz).setFlag hc

theorem setNVZC (h : WritesOnly w s t) {r : AluResult} (hn : .n ∈ w.flags := by simp [Instr.footprint, Instr.flagsWritten])
    (hv : .v ∈ w.flags := by simp [Instr.footprint, Instr.flagsWritten])
    (hz : .z ∈ w.flags := by simp [Instr.footprint, Instr.flagsWritten])
    (hc : .c ∈ w.flags := by simp [Instr.footprint, Instr.flagsWritten]) : WritesOnly w s (t.setNVZC r) :=
  (((h.setFlag hn).setFlag hv).setFlag hz).setFlag hc

theorem store (h : WritesOnly w s t) {m : Mem} {v : Byte}
    (ha : (m.resolve t).1 ∈ w.stored := by simp [Instr.footprint, Instr.storedAt, Instr.stored]) :
    WritesOnly w s (m.store t v) :=
  (h.resolve m).memWrite ha

theorem modify (h : WritesOnly w s t) {m : RmwMem} {f : Byte → Byte}
    (ha : (m.toMem.resolve t).1 ∈ w.stored := by simp [Instr.footprint, Instr.storedAt, Instr.stored]) :
    WritesOnly w s (m.modify t f).2 :=
  ((h.resolve m.toMem).memRead _).memWrite ha

/-- A shift or rotate modifies A or its byte of memory (40_addressing.md R170, R171). -/
theorem modifyOperand (h : WritesOnly w s t) {m : Rmw} {f : Byte → Byte}
    (hacc : m = .acc → .a ∈ w.regs := by rintro rfl; simp [Instr.footprint, Instr.regsWritten])
    (hmem : ∀ k, m = .mem k → (k.toMem.resolve t).1 ∈ w.stored := by
      rintro k rfl; simp [Instr.footprint, Instr.storedAt, Instr.stored]) : WritesOnly w s (m.modify t f).2 := by
  cases m with
  | acc => exact h.setA (hacc rfl)
  | mem k => exact h.modify (hmem k rfl)

theorem push (h : WritesOnly w s t) {v : Byte} (ha : stackAddr t.sp ∈ w.stored := by simp [Instr.footprint])
    (hr : .sp ∈ w.regs := by simp [Instr.footprint, Instr.regsWritten]) : WritesOnly w s (t.push v) :=
  (h.memWrite ha).setSp hr

theorem pull (h : WritesOnly w s t) (hr : .sp ∈ w.regs := by simp [Instr.footprint, Instr.regsWritten]) :
    WritesOnly w s t.pull.2 :=
  (h.setSp hr).memRead _

theorem pullP (h : WritesOnly w s t)
    (hf : ∀ f, f ∈ w.flags := by intro f; cases f <;> simp [Instr.footprint, Instr.flagsWritten])
    (hr : .sp ∈ w.regs := by simp [Instr.footprint, Instr.regsWritten]) : WritesOnly w s t.pullP :=
  (h.pull hr).setP hf

theorem returnFromInterrupt (h : WritesOnly w s t)
    (hf : ∀ f, f ∈ w.flags := by intro f; cases f <;> simp [Instr.footprint, Instr.flagsWritten])
    (hr : .sp ∈ w.regs := by simp [Instr.footprint, Instr.regsWritten]) (hpc : w.movesPc = true := by rfl) :
    WritesOnly w s t.returnFromInterrupt :=
  (((h.pullP hf hr).pull hr).pull hr).setPc hpc

/-- The third byte of an entry is pushed two below the first. -/
theorem interruptEntry (h : WritesOnly w s t) {b : Bool} {vector : Word}
    (ha : [stackAddr t.sp, stackAddr (t.sp - 1#8), stackAddr (t.sp - 2#8)] ⊆ w.stored) (hr : .sp ∈ w.regs)
    (hi : .i ∈ w.flags) (hpc : w.movesPc = true := by rfl) : WritesOnly w s (t.interruptEntry b vector) := by
  have e : t.sp - 1#8 - 1#8 = t.sp - 2#8 := by bv_omega
  have pushed := (h.push (v := hi8 t.pc) (ha (by simp)) hr).push (v := lo8 (t.push (hi8 t.pc)).pc) (ha (by simp)) hr
  exact ((((pushed.push (ha (by simp [e])) hr).setFlag hi).memRead vector).memRead (vector + 1#16)).setPc hpc

/-- The common end of the branches (46_control.md R256), taken or not. -/
theorem branch (h : WritesOnly w s t) {c : Bool} {v : Word} {n n' : Nat} (hpc : w.movesPc = true := by rfl) :
    WritesOnly w s (if c = true then State.finish { t with pc := v } n else t.finish n') := by
  split
  · exact (h.setPc hpc).finish
  · exact h.finish

end WritesOnly

open WritesOnly (refl) in
/-- Every instruction completes, inside its row of 10_state.md R64. -/
theorem exec_writesOnly (i : Instr) (s : State) : ∃ t, exec i s = .next t ∧ WritesOnly (i.footprint s) s t := by
  cases i with
  | lda m => exact ⟨_, exec_lda m s, (refl.load m).setA.setNZ.finish⟩
  | ldx m => exact ⟨_, exec_ldx m s, (refl.load m).setX.setNZ.finish⟩
  | ldy m => exact ⟨_, exec_ldy m s, (refl.load m).setY.setNZ.finish⟩
  | sta m => exact ⟨_, exec_sta m s, refl.store.finish⟩
  | stx m => exact ⟨_, exec_stx m s, refl.store.finish⟩
  | sty m => exact ⟨_, exec_sty m s, refl.store.finish⟩
  | tax => exact ⟨_, exec_tax s, refl.setX.setNZ.finish⟩
  | tay => exact ⟨_, exec_tay s, refl.setY.setNZ.finish⟩
  | txa => exact ⟨_, exec_txa s, refl.setA.setNZ.finish⟩
  | tya => exact ⟨_, exec_tya s, refl.setA.setNZ.finish⟩
  | tsx => exact ⟨_, exec_tsx s, refl.setX.setNZ.finish⟩
  | txs => exact ⟨_, exec_txs s, refl.setSp.finish⟩
  | pha => exact ⟨_, exec_pha s, refl.push.finish⟩
  | php => exact ⟨_, exec_php s, refl.push.finish⟩
  | pla => exact ⟨_, exec_pla s, refl.pull.setA.setNZ.finish⟩
  | plp => exact ⟨_, exec_plp s, refl.pullP.finish⟩
  | adc m => exact ⟨_, exec_adc m s, (refl.load m).setA.setNVZC.finish⟩
  | sbc m => exact ⟨_, exec_sbc m s, (refl.load m).setA.setNVZC.finish⟩
  | cmp m => exact ⟨_, exec_cmp m s, (refl.load m).setNZC.finish⟩
  | cpx m => exact ⟨_, exec_cpx m s, (refl.load m).setNZC.finish⟩
  | cpy m => exact ⟨_, exec_cpy m s, (refl.load m).setNZC.finish⟩
  | inc m => exact ⟨_, exec_inc m s, refl.modify.setNZ.finish⟩
  | dec m => exact ⟨_, exec_dec m s, refl.modify.setNZ.finish⟩
  | inx => exact ⟨_, exec_inx s, refl.setX.setNZ.finish⟩
  | iny => exact ⟨_, exec_iny s, refl.setY.setNZ.finish⟩
  | dex => exact ⟨_, exec_dex s, refl.setX.setNZ.finish⟩
  | dey => exact ⟨_, exec_dey s, refl.setY.setNZ.finish⟩
  | and m => exact ⟨_, exec_and m s, (refl.load m).setA.setNZ.finish⟩
  | ora m => exact ⟨_, exec_ora m s, (refl.load m).setA.setNZ.finish⟩
  | eor m => exact ⟨_, exec_eor m s, (refl.load m).setA.setNZ.finish⟩
  | bit m => exact ⟨_, exec_bit m s, (refl.load (.mem m)).setFlag.setFlag.setFlag.finish⟩
  | asl m => exact ⟨_, exec_asl m s, refl.modifyOperand.setFlag.setNZ.finish⟩
  | lsr m => exact ⟨_, exec_lsr m s, refl.modifyOperand.setFlag.setNZ.finish⟩
  | rol m => exact ⟨_, exec_rol m s, refl.modifyOperand.setFlag.setNZ.finish⟩
  | ror m => exact ⟨_, exec_ror m s, refl.modifyOperand.setFlag.setNZ.finish⟩
  | bcc o => exact ⟨_, exec_bcc o s, refl.branch⟩
  | bcs o => exact ⟨_, exec_bcs o s, refl.branch⟩
  | beq o => exact ⟨_, exec_beq o s, refl.branch⟩
  | bne o => exact ⟨_, exec_bne o s, refl.branch⟩
  | bmi o => exact ⟨_, exec_bmi o s, refl.branch⟩
  | bpl o => exact ⟨_, exec_bpl o s, refl.branch⟩
  | bvc o => exact ⟨_, exec_bvc o s, refl.branch⟩
  | bvs o => exact ⟨_, exec_bvs o s, refl.branch⟩
  | jmp t => exact ⟨_, exec_jmp t s, (refl.jmpResolve t).setPc.finish⟩
  | jsr target => exact ⟨_, exec_jsr target s, (refl.push.push.memRead _).setPc.finish⟩
  | rts => exact ⟨_, exec_rts s, refl.pull.pull.setPc.finish⟩
  | rti => exact ⟨_, exec_rti s, refl.returnFromInterrupt.finish⟩
  | brk b =>
    exact ⟨_, exec_brk b s, (refl.setPc.interruptEntry (by simp [Instr.footprint])
      List.mem_cons_self List.mem_cons_self).finish⟩
  | clc => exact ⟨_, exec_clc s, refl.setFlag.finish⟩
  | sec => exact ⟨_, exec_sec s, refl.setFlag.finish⟩
  | cli => exact ⟨_, exec_cli s, refl.setFlag.finish⟩
  | sei => exact ⟨_, exec_sei s, refl.setFlag.finish⟩
  | cld => exact ⟨_, exec_cld s, refl.setFlag.finish⟩
  | sed => exact ⟨_, exec_sed s, refl.setFlag.finish⟩
  | clv => exact ⟨_, exec_clv s, refl.setFlag.finish⟩
  | nop => exact ⟨_, exec_nop s, refl.finish⟩
  | nopImp op => exact ⟨_, exec_nopImp op s, refl.finish⟩
  | nopImm op v => exact ⟨_, exec_nopImm op v s, refl.finish⟩
  | nopZp op b => exact ⟨_, exec_nopZp op b s, refl.finish⟩
  | nopZpx op b => exact ⟨_, exec_nopZpx op b s, refl.finish⟩
  | nopAbs op w => exact ⟨_, exec_nopAbs op w s, refl.finish⟩
  | nopAbsx op w => exact ⟨_, exec_nopAbsx op w s, refl.finish⟩
  | unrecognized op =>
    have moved : WritesOnly ((Instr.unrecognized op).footprint s) s
        { s with pc := if s.params.unrecognizedAdvance then s.pc else s.pc - 1#16 } := refl.setPc
    exact ⟨_, exec_unrecognized op s, moved.setResult⟩

/-- The next state of an instruction is inside its row. -/
theorem writesOnly_of_exec {i : Instr} {s t : State} (h : exec i s = .next t) : WritesOnly (i.footprint s) s t := by
  obtain ⟨u, hu, written⟩ := exec_writesOnly i s
  obtain rfl : u = t := Host.Outcome.next.inj (hu.symm.trans h)
  exact written

/-- Settles O20: every instruction stays inside its footprint. -/
theorem whoWritesWhat : Obligations.WhoWritesWhat := by
  intro i s t h
  have written := writesOnly_of_exec h
  exact ⟨written.regs, written.flags, written.pLegal, written.rest, written.memory,
    fun hs => written.memoryEq (Instr.storedAt_of_not_stores hs s), written.pc⟩

/-! ## Legal states -/

/-- Legality is about P and memory alone. -/
theorem State.legal.congr {s t : State} (h : s.legal) (hp : t.p = s.p) (hm : t.mem = s.mem) : t.legal := by
  simpa only [State.legal, State.pLegal, hp, hm] using h

/-- A tick that gives a next state ran the polled sequence, or the instruction it fetched (30_encoding.md R120). -/
theorem step_cases {s t : State} (h : step s = .next t) :
    s.tickAllowed ∧ ((∃ e, s.poll = some e ∧ t = s.beginTick.service e) ∨
      (s.poll = none ∧ exec s.beginTick.fetchInstr.1 s.beginTick.fetchInstr.2 = .next t)) := by
  unfold step at h
  split at h
  next => cases h
  next allowed =>
    refine ⟨by simpa [State.tickAllowed, or_iff_not_imp_left] using allowed, ?_⟩
    split at h
    next e polled => exact .inl ⟨e, polled, (Host.Outcome.next.inj h).symm⟩
    next quiet => exact .inr ⟨quiet, h⟩

/-- P after the RESET sequence is legal whatever is drawn (60_exceptions.md R306). -/
theorem resetP_legal (drawn : Byte) : (resetP drawn).getLsbD 5 = true ∧ (resetP drawn).getLsbD 4 = false := by
  simp [resetP]

@[simp] theorem State.resetSequence_mem (s : State) : s.resetSequence.mem = s.mem := by
  simp [State.resetSequence]

theorem State.interruptEntry_legal {s : State} (h : s.legal) (b : Bool) (vector : Word) : (s.interruptEntry b vector).legal :=
  ⟨by simpa [State.pLegal] using h.1, State.interruptEntry_wf h.2 b vector⟩

theorem State.finishSequence_legal {s : State} (h : s.legal) : s.finishSequence.legal := h.congr rfl rfl

theorem State.resetSequence_legal {s : State} (h : s.legal) : s.resetSequence.legal :=
  ⟨resetP_legal _, by simpa using h.2⟩

theorem State.nmiSequence_legal {s : State} (h : s.legal) : s.nmiSequence.legal :=
  (State.interruptEntry_legal h false 0xFFFA#16).congr (t := s.nmiSequence) rfl rfl

theorem State.irqSequence_legal {s : State} (h : s.legal) : s.irqSequence.legal := by
  have entered := State.interruptEntry_legal h false 0xFFFE#16
  simp only [State.irqSequence]
  split
  · exact entered.congr (s := s.interruptEntry false 0xFFFE#16) rfl rfl
  · exact entered

/-- Every polled sequence keeps a legal state legal (60_exceptions.md R304 to R306). -/
theorem State.service_legal {s : State} (h : s.legal) (e : Source) : (s.service e).legal := by
  cases e with
  | reset => exact State.finishSequence_legal (State.resetSequence_legal h)
  | nmi => exact State.finishSequence_legal (State.nmiSequence_legal h)
  | irq => exact State.finishSequence_legal (State.irqSequence_legal h)

/-- Settles O15: a tick is a polled sequence, or an instruction after a fetch that changes neither P nor memory, and both keep
legality. -/
theorem everyTickKeepsLegality : Obligations.EveryTickKeepsLegality := by
  intro s t hs h
  obtain ⟨-, ⟨e, -, rfl⟩ | ⟨-, executed⟩⟩ := step_cases h
  · exact State.service_legal (s := s.beginTick) hs e
  · exact (writesOnly_of_exec executed).legal (hs.congr (by simp) (by simp))

/-- The mutator normalises what it writes to P (60_exceptions.md R321). -/
theorem State.mutate_legal {s : State} (h : s.legal) (m : Mutation) : (s.mutate m).legal := by
  cases m with
  | p v => exact ⟨⟨normP_bit5 v, normP_bit4 v⟩, h.2⟩
  | _ => exact h.congr rfl rfl

/-- A host operation between ticks keeps a legal state legal. -/
theorem State.host_legal {s : State} (h : s.legal) (c : HostCall) : (s.host c).legal := by
  cases c with
  | mutate m => exact State.mutate_legal h m
  | poke a v => exact ⟨h.1, Memory.put_wf h.2 a.isLt⟩
  | _ => exact h.congr rfl rfl

/-- The block is legal from construction on (70_reset_and_hazards.md R331). -/
theorem State.construct_legal {m : Memory} (h : m.wf = true) (o : List Region) (pr : Params) (d : Nat) :
    (State.construct m o pr d).legal :=
  ⟨⟨normP_bit5 _, normP_bit4 _⟩, h⟩

/-- Every run of host operations and ticks keeps a legal state legal. -/
theorem runHost_legal {run : List Drive} {s t : State} (h : s.legal) (hr : runHost run s = .next t) : t.legal := by
  induction run generalizing s with
  | nil => exact Host.Outcome.next.inj hr ▸ h
  | cons d ds ih =>
    cases d with
    | call c => exact ih (State.host_legal h c) hr
    | tick =>
      rw [runHost] at hr
      split at hr
      next u hu => exact ih (everyTickKeepsLegality s u h hu) hr
      next => cases hr
      next => cases hr

/-- Settles O17: construction is legal, and every host operation and tick keeps it so. -/
theorem everyHostRunIsLegal : Obligations.EveryHostRunIsLegal :=
  fun _ o pr d _ _ hm hr => runHost_legal (State.construct_legal hm o pr d) hr

/-- Settles O16: the reset state is one closed term, whose vector is read from empty plain memory. -/
theorem resetStateIsLegal : Obligations.ResetStateIsLegal := by
  have vector : State.reset.pc = (State.reset.readWord 0xFFFC#16).1 := by decide
  exact ⟨⟨⟨rfl, rfl⟩, rfl⟩, rfl, rfl, rfl, vector, rfl, rfl, rfl, rfl⟩

end Sys2Proof.Machine

/-! # The memory family: plain memory and the stack (20_memory.md R82, R83, R92, R93, R101)

A write is seen again by a read of the same plain address, and by no other. The stack operations are one such access each, next
to a step of SP, so what a pull gives after a push follows from the two. -/

namespace Sys2Proof.Machine

/-! ## A read after a write -/

/-- Plain memory reads back a write (20_memory.md R101). -/
theorem State.memRead_memWrite_same {s : State} {w : Word} (v : Byte) (h : s.mem.wf = true) (hp : s.plain w = true) :
    ((s.memWrite w v).memRead w).1 = v := by
  have plain : (s.memWrite w v).plain w = true := by simpa using hp
  rw [State.memRead_of_plain plain, State.memWrite_peek_same v h hp]

/-- A read of plain memory does not see a write of another address, plain or not. -/
theorem State.memRead_memWrite_ne {s : State} {w u : Word} (v : Byte) (hne : u ≠ w) (hp : s.plain u = true) :
    ((s.memWrite w v).memRead u).1 = s.mem.peek u.toNat := by
  have plain : (s.memWrite w v).plain u = true := by simpa using hp
  rw [State.memRead_of_plain plain, State.memWrite_peek_ne s v (mt BitVec.eq_of_toNat_eq hne)]

/-- A write outside plain memory changes no plain byte (log 7). -/
theorem State.memWrite_mem_of_oracle {s : State} {w : Word} (v : Byte) (hp : s.plain w = false) :
    (s.memWrite w v).mem = s.mem := by
  simp [State.memWrite_mem, hp]

/-- Settles O28: the laws of a read after a write, and what one write does to the bus and the canonical form. -/
theorem plainMemoryReadsBackWrites : Obligations.PlainMemoryReadsBackWrites := by
  intro s w u v h
  exact ⟨State.memRead_memWrite_same v h, State.memRead_memWrite_ne v, State.memWrite_mem_of_oracle v,
    State.memWrite_bus s w v, State.memWrite_wf h w v⟩

/-! ## The stack -/

theorem State.push_sp_toNat (s : State) (v : Byte) : (s.push v).sp.toNat = (s.sp.toNat + 255) % 256 := by
  rw [State.push_sp]
  bv_omega

theorem State.pull_sp_toNat (s : State) : s.pull.2.sp.toNat = (s.sp.toNat + 1) % 256 := by
  rw [State.pull_sp]
  bv_omega

/-- A pull after a push gives back SP, wherever the stack is. -/
theorem State.pull_push_sp (s : State) (v : Byte) : (s.push v).pull.2.sp = s.sp := by
  rw [State.pull_sp, State.push_sp, BitVec.sub_add_cancel]

/-- A pull after a push reads the address the push wrote, so plain memory gives the byte pushed (20_memory.md R92, R93). -/
theorem State.pull_push_value {s : State} (v : Byte) (h : s.mem.wf = true) (hp : s.plain (stackAddr s.sp) = true) :
    (s.push v).pull.1 = v := by
  have sameAddr : (s.push v).sp + 1#8 = s.sp := (State.pull_sp _).symm.trans (State.pull_push_sp s v)
  have plain : (s.push v).plain (stackAddr ((s.push v).sp + 1#8)) = true := by rw [sameAddr, State.push_plain, hp]
  rw [State.pull_of_plain plain, sameAddr, State.push_peek_same v h hp]

/-- A push stores at the stack address of the old SP and nowhere else. -/
theorem State.push_memKeptBut (s : State) (v : Byte) : MemKeptBut s (s.push v) [stackAddr s.sp] :=
  fun _ hk => State.push_peek_ne s v (hk _ (List.mem_singleton_self _))

/-- Settles O27: the parts of a push, those of a pull, and the pull after the push. -/
theorem pushAndPull : Obligations.PushAndPull := by
  intro s v
  exact ⟨stackAddr_toNat s.sp,
    ⟨State.push_sp_toNat s v, State.push_bus s v, State.push_peek_same v, State.push_memKeptBut s v⟩,
    ⟨State.pull_sp_toNat s, State.pull_bus s, State.pull_of_plain, State.pull_mem s⟩,
    fun h hp => ⟨State.pull_push_value v h hp, State.pull_push_sp s v⟩⟩

end Sys2Proof.Machine

/-! # The encoding family: the decode table and its encoder, the fetch, the assembler (30_encoding.md R111 to R125)

The opcode byte alone decides the form of an instruction, and the bytes after it are its operand bytes (`entryOf_fills`, the
only walk through the table with free operand bytes). What is left to say of the form is about 256 closed terms. The other way,
every well-formed instruction is what its opcode byte and its operand bytes decode to (`roundTrips_of_wellFormed`). -/

namespace Sys2Proof

/-! ## From an opcode byte to an instruction -/

/-- Two instructions agree in all that an opcode byte decides. -/
structure SameForm (i j : Instr) : Prop where
  opcode : i.opcode? = j.opcode?
  wellFormed : i.wellFormed = j.wellFormed
  length : i.length = j.length
  fetches : i.fetches = j.fetches
  mode : i.mode = j.mode
  baseCycles : i.baseCycles = j.baseCycles
  pageCrossFlag : i.pageCrossFlag = j.pageCrossFlag
  stores : i.stores = j.stores

/-- How many operand bytes follow an opcode byte (R112). -/
def operandLength (op : Byte) : Nat := (decodeOp op 0#8 0#8).length - 1

theorem wordBytes_wordOf (lo hi : Byte) : wordBytes (wordOf lo hi) = [lo, hi] := by simp [wordBytes]

/-- Operand bytes change no form, and become the operand bytes of the instruction. `wordOf` is kept opaque, so that no two words
are compared bit by bit. -/
theorem entryOf_fills (op b1 b2 : Byte) :
    SameForm (decodeOp op b1 b2) (decodeOp op 0#8 0#8) ∧
      (decodeOp op b1 b2).operandBytes =
        if operandLength op = 2 then wordBytes (wordOf b1 b2) else [b1, b2].take (operandLength op) := by
  have everyEntry : ∀ e ∈ decodeTable, ∀ b1 b2, SameForm (e.make b1 b2) (e.make 0#8 0#8) ∧
      (e.make b1 b2).operandBytes =
        if (e.make 0#8 0#8).length - 1 = 2 then wordBytes (wordOf b1 b2)
        else [b1, b2].take ((e.make 0#8 0#8).length - 1) := by
    simp only [decodeTable, opcodeRow0, opcodeRow1, opcodeRow2, opcodeRow3, opcodeRow4, opcodeRow5, opcodeRow6, opcodeRow7,
      opcodeRow8, opcodeRow9, opcodeRowA, opcodeRowB, opcodeRowC, opcodeRowD, opcodeRowE, opcodeRowF, doc, docPc, docBr, ill,
      illPc, unrec, List.forall_mem_append, List.forall_mem_cons, List.not_mem_nil, IsEmpty.forall_iff, implies_true, and_true]
    generalize wordOf = word
    and_intros <;> exact fun _ _ => ⟨⟨rfl, rfl, rfl, rfl, rfl, rfl, rfl, rfl⟩, rfl⟩
  exact everyEntry _ (List.fst_mem_of_mem_zipIdx (entryOf_mem op)) b1 b2

theorem decodeOp_sameForm (op b1 b2 : Byte) : SameForm (decodeOp op b1 b2) (decodeOp op 0#8 0#8) := (entryOf_fills op b1 b2).1

theorem decodeOp_operandBytes (op b1 b2 : Byte) : (decodeOp op b1 b2).operandBytes = [b1, b2].take (operandLength op) := by
  rw [(entryOf_fills op b1 b2).2]
  split
  next two => rw [two, wordBytes_wordOf]; rfl
  next => rfl

/-! ## The 256 forms -/

/-- A fact of every entry and its opcode, in one pass over the table. -/
theorem forall_entryOf {P : Byte → DecodeEntry → Prop}
    (h : ∀ q ∈ decodeTable.zip (List.range' 0 256), P (BitVec.ofNat 8 q.2) q.1) (op : Byte) : P op (entryOf op) := by
  have mem := entryOf_mem op
  rw [List.zipIdx_eq_zip_range', decodeTable_length] at mem
  simpa using h _ mem

theorem opcode?_decodeOp (op b1 b2 : Byte) : (decodeOp op b1 b2).opcode? = some op :=
  (decodeOp_sameForm op b1 b2).opcode.trans
    (forall_entryOf (P := fun op e => (e.make 0#8 0#8).opcode? = some op) (by decide +kernel) op)

theorem wellFormed_decodeOp (op b1 b2 : Byte) : (decodeOp op b1 b2).wellFormed = true :=
  (decodeOp_sameForm op b1 b2).wellFormed.trans
    (forall_entryOf (P := fun _ e => (e.make 0#8 0#8).wellFormed = true) (by decide +kernel) op)

/-- An instruction has one to three bytes (R111). -/
theorem length_decodeOp_bounds (op : Byte) : 1 ≤ (decodeOp op 0#8 0#8).length ∧ (decodeOp op 0#8 0#8).length ≤ 3 :=
  forall_entryOf (P := fun _ e => 1 ≤ (e.make 0#8 0#8).length ∧ (e.make 0#8 0#8).length ≤ 3) (by decide +kernel) op

theorem operandLength_le (op : Byte) : operandLength op ≤ 2 := Nat.sub_le_of_le_add (length_decodeOp_bounds op).2

theorem length_decodeOp (op b1 b2 : Byte) : (decodeOp op b1 b2).length = operandLength op + 1 :=
  (decodeOp_sameForm op b1 b2).length.trans (Nat.sub_add_cancel (length_decodeOp_bounds op).1).symm

/-- R118: the unrecognized entries are those of the 78 listed opcodes. -/
theorem cls_unrecognized_iff (op : Byte) : (entryOf op).cls = .unrecognized ↔ op ∈ unrecognizedOpcodes :=
  forall_entryOf (P := fun op e => e.cls = .unrecognized ↔ op ∈ unrecognizedOpcodes) (by decide +kernel) op

/-- The 78 opcodes of R118 make the unrecognized instruction. -/
theorem decodeOp_of_mem_unrecognizedOpcodes (op : Byte) (listed : op ∈ unrecognizedOpcodes) :
    decodeOp op 0#8 0#8 = .unrecognized op :=
  forall_entryOf (P := fun op e => e.cls = .unrecognized → e.make 0#8 0#8 = .unrecognized op) (by decide +kernel) op
    ((cls_unrecognized_iff op).mpr listed)

theorem operandBytes_length_decodeOp (op b1 b2 : Byte) : (decodeOp op b1 b2).operandBytes.length = operandLength op := by
  simpa [decodeOp_operandBytes] using operandLength_le op

/-- The encoding of what an opcode byte and two bytes decode to (R111, R112). -/
theorem encode_decodeOp (op b1 b2 : Byte) : encode (decodeOp op b1 b2) = op :: [b1, b2].take (operandLength op) := by
  rw [encode, opcode?_decodeOp, ← decodeOp_operandBytes]

/-! ## From an instruction to its opcode byte -/

/-- The instruction of an opcode byte and its operand bytes. A byte that is not there is taken as 0. -/
def decodeOperands (op : Byte) (operands : List Byte) : Instr := decodeOp op (operands.getD 0 0#8) (operands.getD 1 0#8)

/-- An instruction has an opcode byte, and is what this byte and its operand bytes decode to. -/
def RoundTrips (i : Instr) : Prop := ∃ op, i.opcode? = some op ∧ decodeOperands op i.operandBytes = i

/-- A word is two bytes, so a proof about every word may take it apart. -/
theorem Word.casesBytes {P : Word → Prop} (bytes : ∀ lo hi, P (wordOf lo hi)) (w : Word) : P w :=
  wordOf_lo8_hi8 w ▸ bytes (lo8 w) (hi8 w)

/-- The memory modes, their words taken apart. -/
theorem Mem.casesBytes {P : Mem → Prop} (zp : ∀ b, P (.zp b)) (zpx : ∀ b, P (.zpx b)) (zpy : ∀ b, P (.zpy b))
    (abs : ∀ lo hi, P (.abs (wordOf lo hi))) (absx : ∀ lo hi, P (.absx (wordOf lo hi)))
    (absy : ∀ lo hi, P (.absy (wordOf lo hi))) (indx : ∀ b, P (.indx b)) (indy : ∀ b, P (.indy b)) (m : Mem) : P m := by
  cases m with
  | zp b => exact zp b
  | zpx b => exact zpx b
  | zpy b => exact zpy b
  | abs w => exact Word.casesBytes (P := fun w => P (.abs w)) abs w
  | absx w => exact Word.casesBytes (P := fun w => P (.absx w)) absx w
  | absy w => exact Word.casesBytes (P := fun w => P (.absy w)) absy w
  | indx b => exact indx b
  | indy b => exact indy b

/-- The operands of reading instructions, their words taken apart. -/
theorem Src.casesBytes {P : Src → Prop} (imm : ∀ v, P (.imm v)) (zp : ∀ b, P (.mem (.zp b)))
    (zpx : ∀ b, P (.mem (.zpx b))) (zpy : ∀ b, P (.mem (.zpy b))) (abs : ∀ lo hi, P (.mem (.abs (wordOf lo hi))))
    (absx : ∀ lo hi, P (.mem (.absx (wordOf lo hi)))) (absy : ∀ lo hi, P (.mem (.absy (wordOf lo hi))))
    (indx : ∀ b, P (.mem (.indx b))) (indy : ∀ b, P (.mem (.indy b))) (m : Src) : P m := by
  cases m with
  | imm v => exact imm v
  | mem m => exact Mem.casesBytes (P := fun m => P (.mem m)) zp zpx zpy abs absx absy indx indy m

/-- The memory modes of read-modify-write instructions, their words taken apart. -/
theorem RmwMem.casesBytes {P : RmwMem → Prop} (zp : ∀ b, P (.zp b)) (zpx : ∀ b, P (.zpx b))
    (abs : ∀ lo hi, P (.abs (wordOf lo hi))) (absx : ∀ lo hi, P (.absx (wordOf lo hi))) (m : RmwMem) : P m := by
  cases m with
  | zp b => exact zp b
  | zpx b => exact zpx b
  | abs w => exact Word.casesBytes (P := fun w => P (.abs w)) abs w
  | absx w => exact Word.casesBytes (P := fun w => P (.absx w)) absx w

/-- An instruction without operand bytes, or with one. -/
theorem RoundTrips.byte {i : Instr} {op : Byte} (opcode : i.opcode? = some op)
    (decoded : decodeOperands op i.operandBytes = i) : RoundTrips i := ⟨op, opcode, decoded⟩

/-- An instruction with a word for its operand. -/
theorem RoundTrips.word {i : Instr} {op lo hi : Byte} (opcode : i.opcode? = some op)
    (operand : i.operandBytes = wordBytes (wordOf lo hi)) (decoded : decodeOp op lo hi = i) : RoundTrips i :=
  ⟨op, opcode, by rw [operand, wordBytes_wordOf]; exact decoded⟩

open RoundTrips in
/-- Every well-formed instruction is what its opcode byte and its operand bytes decode to. -/
theorem roundTrips_of_wellFormed (i : Instr) (h : i.wellFormed = true) : RoundTrips i := by
  cases i with
  | lda m | adc m | sbc m | cmp m | and m | ora m | eor m =>
    cases m using Src.casesBytes
    case zpy => cases h
    case abs | absx | absy => exact word rfl rfl rfl
    all_goals exact byte rfl rfl
  | ldx m =>
    cases m using Src.casesBytes
    case zpx | absx | indx | indy => cases h
    case abs | absy => exact word rfl rfl rfl
    all_goals exact byte rfl rfl
  | ldy m =>
    cases m using Src.casesBytes
    case zpy | absy | indx | indy => cases h
    case abs | absx => exact word rfl rfl rfl
    all_goals exact byte rfl rfl
  | cpx m | cpy m =>
    cases m using Src.casesBytes
    case imm | zp => exact byte rfl rfl
    case abs => exact word rfl rfl rfl
    all_goals cases h
  | sta m =>
    cases m using Mem.casesBytes
    case zpy => cases h
    case abs | absx | absy => exact word rfl rfl rfl
    all_goals exact byte rfl rfl
  | stx m =>
    cases m using Mem.casesBytes
    case zp | zpy => exact byte rfl rfl
    case abs => exact word rfl rfl rfl
    all_goals cases h
  | sty m =>
    cases m using Mem.casesBytes
    case zp | zpx => exact byte rfl rfl
    case abs => exact word rfl rfl rfl
    all_goals cases h
  | bit m =>
    cases m using Mem.casesBytes
    case zp => exact byte rfl rfl
    case abs => exact word rfl rfl rfl
    all_goals cases h
  | inc m | dec m =>
    cases m using RmwMem.casesBytes
    case zp | zpx => exact byte rfl rfl
    case abs | absx => exact word rfl rfl rfl
  | asl m | lsr m | rol m | ror m =>
    cases m with
    | acc => exact byte rfl rfl
    | mem m =>
      cases m using RmwMem.casesBytes
      case zp | zpx => exact byte rfl rfl
      case abs | absx => exact word rfl rfl rfl
  | jmp t =>
    cases t with
    | abs w | ind w =>
      cases w using Word.casesBytes
      exact word rfl rfl rfl
  | jsr w =>
    cases w using Word.casesBytes
    exact word rfl rfl rfl
  | nopImp op =>
    have listed : op ∈ nopImpOpcodes := List.contains_iff_mem.mp h
    fin_cases listed <;> exact byte rfl rfl
  | nopImm op v =>
    have listed : op ∈ nopImmOpcodes := List.contains_iff_mem.mp h
    fin_cases listed <;> exact byte rfl rfl
  | nopZp op b =>
    have listed : op ∈ nopZpOpcodes := List.contains_iff_mem.mp h
    fin_cases listed <;> exact byte rfl rfl
  | nopZpx op b =>
    have listed : op ∈ nopZpxOpcodes := List.contains_iff_mem.mp h
    fin_cases listed <;> exact byte rfl rfl
  | nopAbs op w =>
    obtain rfl : op = 0x0C#8 := List.mem_singleton.mp (List.contains_iff_mem.mp h)
    cases w using Word.casesBytes
    exact word rfl rfl rfl
  | nopAbsx op w =>
    have listed : op ∈ nopAbsxOpcodes := List.contains_iff_mem.mp h
    cases w using Word.casesBytes
    fin_cases listed <;> exact word rfl rfl rfl
  | unrecognized op => exact byte rfl (decodeOp_of_mem_unrecognizedOpcodes op (List.contains_iff_mem.mp h))
  | _ => exact byte rfl rfl

/-! ## The decoder -/

/-- The bytes an instruction does not have are ignored (R114). -/
theorem decodeOperands_take (op b1 b2 : Byte) : decodeOperands op ([b1, b2].take (operandLength op)) = decodeOp op b1 b2 := by
  obtain ⟨op', opcode, decoded⟩ := roundTrips_of_wellFormed _ (wellFormed_decodeOp op b1 b2)
  obtain rfl : op = op' := Option.some.inj ((opcode?_decodeOp op b1 b2).symm.trans opcode)
  rwa [decodeOp_operandBytes] at decoded

/-- Operand bytes in the number their opcode byte wants are the ones encoded (R111, R112). -/
theorem encode_decodeOperands {op : Byte} {operands : List Byte} (h : operands.length = operandLength op) :
    encode (decodeOperands op operands) = op :: operands := by
  have le : operands.length ≤ 2 := h ▸ operandLength_le op
  rw [decodeOperands, encode_decodeOp, ← h]
  match operands, le with
  | [], _ => rfl
  | [_], _ => rfl
  | [_, _], _ => rfl

/-- The decoder splits the operand bytes off, or misses one (R111, R114). -/
theorem decode_cons (op : Byte) (tail : List Byte) : decode (op :: tail) =
    if operandLength op ≤ tail.length then
      .ok (decodeOperands op (tail.take (operandLength op)), tail.drop (operandLength op))
    else .error (.missingOperand op) := by
  have total : (decodeOp op 0#8 0#8).length = operandLength op + 1 := length_decodeOp op 0#8 0#8
  have le : operandLength op ≤ 2 := operandLength_le op
  simp only [decode]
  rw [total]
  generalize operandLength op = n at le
  match n, tail with
  | 0, tail => simp [decodeOperands]
  | 1, [] => simp
  | 1, b1 :: tail => simp [decodeOperands]
  | 2, [] => simp
  | 2, [b1] => simp
  | 2, b1 :: b2 :: tail => simp [decodeOperands]

/-- Settles O1: the encoding is the opcode byte and the operand bytes that the decoder splits off. -/
theorem decodeAfterEncode : Obligations.DecodeAfterEncode := by
  intro i rest h
  obtain ⟨op, opcode, decoded⟩ := roundTrips_of_wellFormed i h
  have length : i.operandBytes.length = operandLength op := by
    rw [← decoded]
    exact operandBytes_length_decodeOp op _ _
  have encoded : encode i = op :: i.operandBytes := by rw [encode, opcode]
  rw [encoded, List.cons_append, decode_cons, ← length]
  simp [decoded]

/-- Settles O2: the decoder's operand bytes are those of the instruction it makes. -/
theorem encodeAfterDecode : Obligations.EncodeAfterDecode := by
  intro bytes i rest h
  cases bytes with
  | nil => cases h
  | cons op tail =>
    rw [decode_cons] at h
    split at h
    next enough =>
      obtain ⟨rfl, rfl⟩ := Prod.mk.inj (Except.ok.inj h)
      have encoded : encode (decodeOperands op (tail.take (operandLength op))) = op :: tail.take (operandLength op) :=
        encode_decodeOperands (List.length_take_of_le enough)
      refine ⟨wellFormed_decodeOp _ _ _, ?_, ?_⟩
      · rw [encoded, List.cons_append, List.take_append_drop]
      · rw [encoded, decodeOperands, length_decodeOp, List.length_cons, List.length_take_of_le enough]
    next => cases h

/-- Settles O3: the table is dense, the form of an instruction is its opcode's, and the decoder wants its operand bytes only. -/
theorem everyOpcodeByteDecodes : Obligations.EveryOpcodeByteDecodes := by
  refine ⟨decodeTable_length, fun op => List.mem_zipIdx_iff_getElem?.mp (entryOf_mem op), fun op b1 b2 => ?_, ?_, ?_, rfl⟩
  · have form := decodeOp_sameForm op b1 b2
    exact ⟨opcode?_decodeOp op b1 b2, wellFormed_decodeOp op b1 b2, form.mode, form.length⟩
  · intro op rest enough
    rw [length_decodeOp, Nat.add_le_add_iff_right] at enough
    exact ⟨_, _, by rw [decode_cons, if_pos enough]⟩
  · intro op rest short
    rw [length_decodeOp, Nat.add_lt_add_iff_right] at short
    rw [decode_cons, if_neg (Nat.not_le.mpr short)]

/-! ## The classes and the numbers of the table -/

/-- R117: the illegal NOPs are those of the 27 listed opcodes. -/
theorem cls_illegalNop_iff (op : Byte) : (entryOf op).cls = .illegalNop ↔
    op ∈ nopImpOpcodes ++ nopImmOpcodes ++ nopZpOpcodes ++ nopZpxOpcodes ++ nopAbsOpcodes ++ nopAbsxOpcodes :=
  forall_entryOf (P := fun op e => e.cls = .illegalNop ↔
    op ∈ nopImpOpcodes ++ nopImmOpcodes ++ nopZpOpcodes ++ nopZpxOpcodes ++ nopAbsOpcodes ++ nopAbsxOpcodes)
    (by decide +kernel) op

/-- Exactly the listed opcodes make the unrecognized instruction, whatever bytes follow. -/
theorem decodeOp_eq_unrecognized_iff (op b1 b2 : Byte) :
    decodeOp op b1 b2 = .unrecognized op ↔ op ∈ unrecognizedOpcodes := by
  constructor
  · intro decoded
    have wellFormed : (Instr.unrecognized op).wellFormed = true := decoded ▸ wellFormed_decodeOp op b1 b2
    exact List.contains_iff_mem.mp wellFormed
  · intro listed
    have noOperand : operandLength op = 0 := by rw [operandLength, decodeOp_of_mem_unrecognizedOpcodes op listed]; rfl
    rw [← decodeOperands_take, noOperand]
    exact decodeOp_of_mem_unrecognizedOpcodes op listed

/-- Settles O5: two counts of the table, and the three characterizations above. -/
theorem opcodeClassesPartitionTheBytes : Obligations.OpcodeClassesPartitionTheBytes := by
  have documented : (decodeTable.filter fun e => e.cls = .documented).length = 151 := by decide +kernel
  have illegalNop : (decodeTable.filter fun e => e.cls = .illegalNop).length = 27 := by decide +kernel
  exact ⟨documented, illegalNop,
    fun op b1 b2 => (cls_unrecognized_iff op).trans (decodeOp_eq_unrecognized_iff op b1 b2).symm,
    cls_unrecognized_iff, cls_illegalNop_iff⟩

/-- The numbers and flags of an entry are those of the form it makes (R115, R346). -/
theorem entryOf_agrees (op : Byte) : let e := entryOf op; let i := decodeOp op 0#8 0#8
    e.mode = i.mode ∧ e.base = i.baseCycles ∧ e.pageCross = i.pageCrossFlag ∧ (e.branch = true ↔ i.mode = .rel) ∧
      (e.pageCross = true ↔ (i.mode = .absx ∨ i.mode = .absy ∨ i.mode = .indy) ∧ i.stores = false) :=
  forall_entryOf (P := fun _ e => let i := e.make 0#8 0#8
    e.mode = i.mode ∧ e.base = i.baseCycles ∧ e.pageCross = i.pageCrossFlag ∧ (e.branch = true ↔ i.mode = .rel) ∧
      (e.pageCross = true ↔ (i.mode = .absx ∨ i.mode = .absy ∨ i.mode = .indy) ∧ i.stores = false)) (by decide +kernel) op

/-- Settles O6: the table agrees form by form, and operand bytes change no form. -/
theorem entriesAgreeWithInstructions : Obligations.EntriesAgreeWithInstructions := by
  intro op b1 b2
  obtain ⟨mode, base, pageCross, branch, indexedReads⟩ := entryOf_agrees op
  have form := decodeOp_sameForm op b1 b2
  rw [← form.mode] at mode branch indexedReads
  rw [← form.baseCycles] at base
  rw [← form.pageCrossFlag] at pageCross
  rw [← form.stores] at indexedReads
  exact ⟨mode, base, pageCross, branch, fun crossed extra => by rw [Instr.cycles, base, pageCross], indexedReads⟩

/-- Settles O4: each word by running the decoder on it. -/
theorem sampleWordsDecode : Obligations.SampleWordsDecode :=
  ⟨rfl, rfl, rfl, rfl, rfl, rfl, rfl, rfl, rfl, rfl, rfl⟩

end Sys2Proof

namespace Sys2Proof.Machine

/-! ## The assembler's branch offsets -/

theorem sext16_toInt (o : Byte) : (sext16 o).toInt = o.toInt := BitVec.toInt_signExtend_of_le (by decide)

/-- A branch goes to its target modulo 65536 (40_addressing.md R165). -/
theorem branchTarget_toNat (pc : Word) (o : Byte) : ((branchTarget pc o).toNat : Int) = ((pc.toNat : Int) + o.toInt) % 65536 := by
  have sext : ((sext16 o).toNat : Int) = o.toInt % 65536 := by
    rw [← sext16_toInt, BitVec.toInt_eq_toNat_cond]
    have := (sext16 o).isLt
    split <;> omega
  rw [branchTarget, BitVec.toNat_add]
  omega

/-- The distances in -128..127 are the offset bytes. -/
theorem exists_offset {d : Int} (low : -128 ≤ d) (high : d ≤ 127) : ∃ o : Byte, o.toInt = d :=
  ⟨BitVec.ofInt 8 d, BitVec.toInt_ofInt_eq_self (by decide) low (by omega)⟩

/-- The assembler gives the offset that goes to the target: it exists exactly when their distance is an offset byte. -/
theorem branchOffset_eq_some_iff (address target : Word) (o : Byte) :
    branchOffset address target = some o ↔ branchTarget (address + 2#16) o = target := by
  have distance : branchTarget (address + 2#16) o = target ↔ (target - (address + 2#16)).toInt = o.toInt := by
    rw [branchTarget, ← sext16_toInt, BitVec.toInt_inj, BitVec.sub_eq_iff_eq_add, BitVec.add_comm, eq_comm]
  rw [distance, branchOffset]
  generalize (target - (address + 2#16)).toInt = d
  have low : -128 ≤ o.toInt := BitVec.le_toInt o
  have high : o.toInt < 128 := BitVec.toInt_lt
  split
  next inRange =>
    obtain ⟨o', rfl⟩ := exists_offset inRange.1 inRange.2
    rw [BitVec.ofInt_toInt, Option.some_inj, BitVec.toInt_inj]
  next outside =>
    constructor
    · intro h
      cases h
    · rintro rfl
      exact absurd ⟨low, by omega⟩ outside

/-- Settles O60: an offset is given exactly when a branch by it goes to the target. -/
theorem assembledBranchReachesItsTarget : Obligations.AssembledBranchReachesItsTarget := by
  intro address target
  refine ⟨fun o => (branchOffset_eq_some_iff address target o).mp,
    fun o => (branchOffset_eq_some_iff address _ o).mpr rfl, ?_⟩
  have reaches (o : Byte) : branchOffset address target = some o ↔
      (target.toNat : Int) = ((address.toNat : Int) + 2 + o.toInt) % 65536 := by
    rw [branchOffset_eq_some_iff, eq_comm, ← BitVec.toNat_inj, ← Int.natCast_inj, branchTarget_toNat, BitVec.toNat_add]
    have two : (2#16).toNat = 2 := rfl
    rw [two]
    omega
  rw [Option.eq_none_iff_forall_ne_some]
  constructor
  · intro none d low high target
    obtain ⟨o, rfl⟩ := exists_offset low high
    exact none o ((reaches o).mpr target)
  · intro unreachable o some
    exact unreachable o.toInt (BitVec.le_toInt o) (Int.le_of_lt_add_one BitVec.toInt_lt) ((reaches o).mp some)

/-! ## Every instruction completes -/

/-- The instruction completes, keeps the observed opcode, and reports whether it is an opcode of the map (30_encoding.md R123). -/
def Completes (i : Instr) (s : State) : Prop :=
  ∃ t, exec i s = .next t ∧
    (∀ op, i.opcode? = some op → s.result.opcodeObserved = op → t.result.opcodeObserved = op) ∧
    (t.result.recognized = false ↔ ∃ op, i = .unrecognized op)

/-- A recognized instruction ends in `State.finish`, after operations that leave the result alone. -/
theorem Completes.of_finish {i : Instr} {s u : State} {n : Nat} (executed : exec i s = .next (u.finish n))
    (kept : u.result = s.result := by simp) (recognized : ∀ op, i ≠ .unrecognized op := by nofun) : Completes i s :=
  ⟨_, executed, fun op _ observed => by simpa [kept] using observed, by simpa using recognized⟩

/-- A branch ends in `State.finish`, taken or not (46_control.md R256). -/
theorem Completes.of_branch {i : Instr} {s u v : State} {c : Bool} {n n' : Nat}
    (executed : exec i s = .next (if c = true then u.finish n else v.finish n'))
    (kept : u.result = s.result := by simp) (kept' : v.result = s.result := by simp)
    (recognized : ∀ op, i ≠ .unrecognized op := by nofun) : Completes i s := by
  cases c with
  | true => exact .of_finish executed kept recognized
  | false => exact .of_finish executed kept' recognized

open Completes in
/-- Settles O19: by the end of each instruction's meaning. -/
theorem everyInstructionCompletes : Obligations.EveryInstructionCompletes := by
  intro i s
  change Completes i s
  cases i with
  | lda m => exact of_finish (exec_lda m s)
  | ldx m => exact of_finish (exec_ldx m s)
  | ldy m => exact of_finish (exec_ldy m s)
  | sta m => exact of_finish (exec_sta m s)
  | stx m => exact of_finish (exec_stx m s)
  | sty m => exact of_finish (exec_sty m s)
  | tax => exact of_finish (exec_tax s)
  | tay => exact of_finish (exec_tay s)
  | txa => exact of_finish (exec_txa s)
  | tya => exact of_finish (exec_tya s)
  | tsx => exact of_finish (exec_tsx s)
  | txs => exact of_finish (exec_txs s)
  | pha => exact of_finish (exec_pha s)
  | php => exact of_finish (exec_php s)
  | pla => exact of_finish (exec_pla s)
  | plp => exact of_finish (exec_plp s)
  | adc m => exact of_finish (exec_adc m s)
  | sbc m => exact of_finish (exec_sbc m s)
  | cmp m => exact of_finish (exec_cmp m s)
  | cpx m => exact of_finish (exec_cpx m s)
  | cpy m => exact of_finish (exec_cpy m s)
  | inc m => exact of_finish (exec_inc m s)
  | dec m => exact of_finish (exec_dec m s)
  | inx => exact of_finish (exec_inx s)
  | iny => exact of_finish (exec_iny s)
  | dex => exact of_finish (exec_dex s)
  | dey => exact of_finish (exec_dey s)
  | and m => exact of_finish (exec_and m s)
  | ora m => exact of_finish (exec_ora m s)
  | eor m => exact of_finish (exec_eor m s)
  | bit m => exact of_finish (exec_bit m s)
  | asl m => exact of_finish (exec_asl m s)
  | lsr m => exact of_finish (exec_lsr m s)
  | rol m => exact of_finish (exec_rol m s)
  | ror m => exact of_finish (exec_ror m s)
  | bcc o => exact of_branch (exec_bcc o s)
  | bcs o => exact of_branch (exec_bcs o s)
  | beq o => exact of_branch (exec_beq o s)
  | bne o => exact of_branch (exec_bne o s)
  | bmi o => exact of_branch (exec_bmi o s)
  | bpl o => exact of_branch (exec_bpl o s)
  | bvc o => exact of_branch (exec_bvc o s)
  | bvs o => exact of_branch (exec_bvs o s)
  | jmp t => exact of_finish (exec_jmp t s)
  | jsr w => exact of_finish (exec_jsr w s)
  | rts => exact of_finish (exec_rts s)
  | rti => exact of_finish (exec_rti s)
  | brk b => exact of_finish (exec_brk b s)
  | clc => exact of_finish (exec_clc s)
  | sec => exact of_finish (exec_sec s)
  | cli => exact of_finish (exec_cli s)
  | sei => exact of_finish (exec_sei s)
  | cld => exact of_finish (exec_cld s)
  | sed => exact of_finish (exec_sed s)
  | clv => exact of_finish (exec_clv s)
  | nop => exact of_finish (exec_nop s)
  | nopImp op => exact of_finish (exec_nopImp op s)
  | nopImm op v => exact of_finish (exec_nopImm op v s)
  | nopZp op b => exact of_finish (exec_nopZp op b s)
  | nopZpx op b => exact of_finish (exec_nopZpx op b s)
  | nopAbs op w => exact of_finish (exec_nopAbs op w s)
  | nopAbsx op w => exact of_finish (exec_nopAbsx op w s)
  | unrecognized op =>
    have opcode : ∀ op', (Instr.unrecognized op).opcode? = some op' → s.result.opcodeObserved = op' → op = op' :=
      fun _ h _ => Option.some.inj h
    exact ⟨_, exec_unrecognized op s, opcode, by simp⟩

/-! ## The fetch -/

/-- Which of its bytes an instruction fetches is decided by its opcode byte. -/
def fetchCount (op : Byte) : Nat := (decodeOp op 0#8 0#8).fetches

theorem fetches_decodeOp (op b1 b2 : Byte) : (decodeOp op b1 b2).fetches = fetchCount op := (decodeOp_sameForm op b1 b2).fetches

/-- At most the last operand byte is not fetched (46_control.md R266, R269). -/
theorem fetchCount_bounds (op : Byte) : fetchCount op ≤ operandLength op ∧ operandLength op ≤ fetchCount op + 1 :=
  forall_entryOf (P := fun _ e => (e.make 0#8 0#8).fetches ≤ (e.make 0#8 0#8).length - 1 ∧
    (e.make 0#8 0#8).length - 1 ≤ (e.make 0#8 0#8).fetches + 1) (by decide +kernel) op

/-- All bytes are fetched before the operation, but JSR's last and BRK's signature (46_control.md R266, R269). -/
theorem fetches_succ_eq_length (i : Instr) : i.fetches + 1 = i.length ∨ (∃ w, i = .jsr w) ∨ ∃ b, i = .brk b := by
  unfold Instr.fetches
  split
  next w => exact .inr (.inl ⟨w, rfl⟩)
  next =>
    unfold Instr.length
    split
    next b _ => exact .inr (.inr ⟨b, rfl⟩)
    next => exact .inl rfl

@[simp] theorem State.fetchByte_bus (s : State) : s.fetchByte.2.bus = s.bus ++ [.read s.pc s.fetchByte.1] := by
  simp [State.fetchByte]

/-- A fetched byte of plain memory is the one memory holds. -/
theorem State.fetchByte_value {s : State} (h : s.plain s.pc = true) : s.fetchByte.1 = s.mem.peek s.pc.toNat := by
  rw [State.fetchByte_of_plain h]

/-- The reads of bytes at consecutive addresses, the first at `a`. -/
def readsFrom (a : Word) (bytes : List Byte) : List BusAccess :=
  bytes.zipIdx.map fun bk => .read (a + BitVec.ofNat 16 bk.2) bk.1

theorem readsFrom_range (a : Word) (n : Nat) (f : Nat → Byte) :
    readsFrom a ((List.range n).map f) = (List.range n).map fun k => .read (a + BitVec.ofNat 16 k) (f k) :=
  List.ext_getElem (by simp [readsFrom]) (by simp [readsFrom])

/-- Between `s` and `t` nothing happened but the fetches that answered `bytes`, and notes in the result of the tick. -/
structure Fetched (s t : State) (bytes : List Byte) : Prop where
  pc : t.pc = s.pc + BitVec.ofNat 16 bytes.length
  bus : t.bus = s.bus ++ readsFrom s.pc bytes
  mem : t.mem = s.mem
  plain : ∀ a, t.plain a = s.plain a
  held : ∀ k, k < bytes.length → s.plain (s.pc + BitVec.ofNat 16 k) = true →
    bytes[k]? = some (s.mem.peek (s.pc + BitVec.ofNat 16 k).toNat)
  state : (∀ k, k < bytes.length → s.plain (s.pc + BitVec.ofNat 16 k) = true) →
    t = { s with pc := t.pc, bus := t.bus, result := t.result }

namespace Fetched

variable {s t : State} {bytes : List Byte}

theorem refl (s : State) : Fetched s s [] where
  pc := by simp
  bus := by simp [readsFrom]
  mem := rfl
  plain _ := rfl
  held k hk := absurd hk (Nat.not_lt_zero k)
  state _ := rfl

theorem peek_pc (h : Fetched s t bytes) :
    t.mem.peek t.pc.toNat = s.mem.peek (s.pc + BitVec.ofNat 16 bytes.length).toNat := by rw [h.mem, h.pc]

theorem setResult (h : Fetched s t bytes) (r : TickResult) : Fetched s { t with result := r } bytes where
  pc := h.pc
  bus := h.bus
  mem := h.mem
  plain := h.plain
  held := h.held
  state hp := by rw [h.state hp]

theorem fetchByte (h : Fetched s t bytes) : Fetched s t.fetchByte.2 (bytes ++ [t.fetchByte.1]) where
  pc := by
    rw [State.fetchByte_pc, h.pc, List.length_append, List.length_singleton, BitVec.ofNat_add, BitVec.add_assoc]
  bus := by simp [h.bus, h.pc, readsFrom, List.zipIdx_append]
  mem := by rw [State.fetchByte_mem, h.mem]
  plain a := by rw [State.fetchByte_plain, h.plain]
  held k hk hp := by
    rw [List.length_append, List.length_singleton] at hk
    rcases Nat.lt_succ_iff_lt_or_eq.mp hk with earlier | rfl
    · rw [List.getElem?_append_left earlier, h.held k earlier hp]
    · rw [← h.pc] at hp ⊢
      rw [List.getElem?_concat_length, State.fetchByte_value (by rw [h.plain, hp]), h.mem]
  state hp := by
    rw [List.length_append, List.length_singleton] at hp
    have before := h.state fun k hk => hp k (Nat.lt_succ_of_lt hk)
    have last : t.plain t.pc = true := by rw [h.plain, h.pc, hp _ (Nat.lt_succ_self _)]
    rw [State.fetchByte_of_plain last, before]

/-- In plain memory the fetches answer what memory holds. -/
theorem bytes_of_plain (h : Fetched s t bytes)
    (plain : ∀ k, k < bytes.length → s.plain (s.pc + BitVec.ofNat 16 k) = true) :
    bytes = (List.range bytes.length).map fun k => s.mem.peek (s.pc + BitVec.ofNat 16 k).toNat := by
  apply List.ext_getElem?
  intro k
  rcases Nat.lt_or_ge k bytes.length with inside | outside
  · rw [h.held k inside (plain k inside)]
    simp [inside]
  · rw [List.getElem?_eq_none outside, List.getElem?_eq_none (by simpa using outside)]

/-- The state after fetches from plain memory. -/
theorem eq_of_plain (h : Fetched s t bytes)
    (plain : ∀ k, k < bytes.length → s.plain (s.pc + BitVec.ofNat 16 k) = true) :
    t = { s with
      pc := s.pc + BitVec.ofNat 16 bytes.length
      bus := s.bus ++ (List.range bytes.length).map fun k =>
        .read (s.pc + BitVec.ofNat 16 k) (s.mem.peek (s.pc + BitVec.ofNat 16 k).toNat)
      result := t.result } := by
  have reads := readsFrom_range s.pc bytes.length fun k => s.mem.peek (s.pc + BitVec.ofNat 16 k).toNat
  rw [← h.bytes_of_plain plain] at reads
  rw [← reads, ← h.bus, ← h.pc]
  exact h.state plain

end Fetched

/-- The state after the opcode byte, which is the one observed (30_encoding.md R121, R123). -/
def State.fetchOpcode (s : State) : State :=
  { s.fetchByte.2 with result := { s.fetchByte.2.result with opcodeObserved := s.fetchByte.1 } }

theorem State.fetchOpcode_fetched (s : State) : Fetched s s.fetchOpcode [s.fetchByte.1] :=
  (Fetched.refl s).fetchByte.setResult _

/-- The fetch: the opcode byte and the operand bytes that its form fetches (30_encoding.md R113), and the byte memory holds in
place of one that it does not (log 11). -/
theorem State.fetchInstr_fetched (s : State) : ∃ b1 b2,
    s.fetchInstr.1 = decodeOp s.fetchByte.1 b1 b2 ∧
    s.fetchInstr.2.result = { s.result with opcodeObserved := s.fetchByte.1 } ∧
    Fetched s s.fetchInstr.2 (s.fetchByte.1 :: [b1, b2].take (fetchCount s.fetchByte.1)) ∧
    (fetchCount s.fetchByte.1 = 0 → b1 = s.mem.peek (s.pc + 1#16).toNat) ∧
    (fetchCount s.fetchByte.1 = 1 → b2 = s.mem.peek (s.pc + 2#16).toNat) := by
  let op := s.fetchByte.1
  let v := s.fetchOpcode.operandByte (decide (1 ≤ fetchCount op))
  let w := v.2.operandByte (decide (2 ≤ fetchCount op))
  have opcode : Fetched s s.fetchOpcode [op] := s.fetchOpcode_fetched
  have le : fetchCount op ≤ 2 := (fetchCount_bounds op).1.trans (operandLength_le op)
  have bytes : Fetched s w.2 (op :: [v.1, w.1].take (fetchCount op)) ∧
      (fetchCount op = 0 → v.1 = s.mem.peek (s.pc + 1#16).toNat) ∧
      (fetchCount op = 1 → w.1 = s.mem.peek (s.pc + 2#16).toNat) := by
    simp only [w, v]
    generalize fetchCount op = n at le
    match n, le with
    | 0, _ => exact ⟨opcode, fun _ => opcode.peek_pc, nofun⟩
    | 1, _ => exact ⟨opcode.fetchByte, nofun, fun _ => opcode.fetchByte.peek_pc⟩
    | 2, _ => exact ⟨opcode.fetchByte.fetchByte, nofun, nofun⟩
  exact ⟨v.1, w.1, rfl, by simp [State.fetchInstr], bytes⟩

theorem take_fetchCount_length (op b1 b2 : Byte) : ([b1, b2].take (fetchCount op)).length = fetchCount op :=
  List.length_take_of_le ((fetchCount_bounds op).1.trans (operandLength_le op))

/-- Settles O8: the fetched bytes are the encoding as far as it is fetched. -/
theorem fetchReadsTheInstructionBytes : Obligations.FetchReadsTheInstructionBytes := by
  intro s
  obtain ⟨b1, b2, decoded, result, fetched, -, -⟩ := s.fetchInstr_fetched
  have kept : RegsKept s s.fetchInstr.2 [] := .of_reads (by simp) (by simp) (by simp) (by simp)
  have rest : RestKept s s.fetchInstr.2 := by simp [RestKept]
  have p : s.fetchInstr.2.p = s.p := State.fetchInstr_p s
  have observed : s.fetchInstr.2.result.opcodeObserved = s.fetchByte.1 := by rw [result]
  generalize s.fetchInstr.1 = i at *
  generalize s.fetchInstr.2 = t at *
  generalize s.fetchByte.1 = op at *
  subst decoded
  have count := fetches_decodeOp op b1 b2
  have encoded : (encode (decodeOp op b1 b2)).take (fetchCount op + 1) = op :: [b1, b2].take (fetchCount op) := by
    rw [encode_decodeOp, List.take_succ_cons, List.take_take, Nat.min_eq_left (fetchCount_bounds op).1]
  have length : (op :: [b1, b2].take (fetchCount op)).length = fetchCount op + 1 := by
    rw [List.length_cons, take_fetchCount_length]
  dsimp only
  rw [count, encoded, observed]
  refine ⟨wellFormed_decodeOp op b1 b2, opcode?_decodeOp op b1 b2, by rw [fetched.pc, length],
    ⟨length, rfl, fetched.bus, fun k hk => fetched.held k (by omega)⟩, ?_, kept, p, rest, fetched.mem⟩
  rw [← count]
  exact fetches_succ_eq_length _

/-! ## The tick -/

/-- A tick with nothing polled runs the fetched instruction (30_encoding.md R120). -/
theorem step_of_poll_none {s : State} (allowed : s.tickAllowed) (quiet : s.poll = none) :
    step s = exec s.beginTick.fetchInstr.1 s.beginTick.fetchInstr.2 := by
  have notRefused : ¬((!s.started && !s.resetPending) = true) := by
    simpa [State.tickAllowed, or_iff_not_imp_left] using allowed
  rw [step, if_neg notRefused, quiet]

/-- The bytes an instruction does not have do not matter. -/
theorem decodeOp_congr {op b1 b2 c1 c2 : Byte} (first : b1 = c1) (second : 2 ≤ operandLength op → b2 = c2) :
    decodeOp op b1 b2 = decodeOp op c1 c2 := by
  subst first
  rw [← decodeOperands_take op b1 b2, ← decodeOperands_take op b1 c2]
  have le := operandLength_le op
  generalize operandLength op = n at *
  match n, le with
  | 0, _ => rfl
  | 1, _ => rfl
  | 2, _ => rw [second (Nat.le_refl 2)]

/-- The fetch in plain memory. -/
theorem State.fetchInstr_of_plain {s : State} {op b1 b2 : Byte} (h0 : op = s.mem.peek s.pc.toNat)
    (h1 : b1 = s.mem.peek (s.pc + 1#16).toNat) (h2 : b2 = s.mem.peek (s.pc + 2#16).toNat)
    (plain : ∀ k, k ≤ fetchCount op → s.plain (s.pc + BitVec.ofNat 16 k) = true) :
    s.fetchInstr = (decodeOp op b1 b2, { s with
      pc := s.pc + BitVec.ofNat 16 (fetchCount op + 1)
      bus := s.bus ++ (List.range (fetchCount op + 1)).map fun k =>
        .read (s.pc + BitVec.ofNat 16 k) (s.mem.peek (s.pc + BitVec.ofNat 16 k).toNat)
      result := { s.result with opcodeObserved := op } }) := by
  have opcode : s.fetchByte.1 = op := by
    have plainOpcode : s.plain s.pc = true := by simpa using plain 0 (Nat.zero_le _)
    rw [h0, State.fetchByte_value plainOpcode]
  obtain ⟨c1, c2, decoded, result, fetched, peeked1, peeked2⟩ := s.fetchInstr_fetched
  rw [opcode] at decoded result fetched peeked1 peeked2
  have length : (op :: [c1, c2].take (fetchCount op)).length = fetchCount op + 1 := by
    rw [List.length_cons, take_fetchCount_length]
  have state : s.fetchInstr.2 = _ := fetched.eq_of_plain fun k hk => plain k (by omega)
  rw [length, result] at state
  have held (k : Nat) (hk : k ≤ fetchCount op) : (op :: [c1, c2].take (fetchCount op))[k]? =
      some (s.mem.peek (s.pc + BitVec.ofNat 16 k).toNat) := fetched.held k (by omega) (plain k hk)
  have operands : c1 = b1 ∧ (2 ≤ operandLength op → c2 = b2) := by
    subst h1 h2
    obtain ⟨le, unfetched⟩ := fetchCount_bounds op
    have le2 := le.trans (operandLength_le op)
    clear plain fetched state length
    generalize fetchCount op = n at *
    match n, le2 with
    | 0, _ => exact ⟨peeked1 rfl, fun two => absurd two (by omega)⟩
    | 1, _ => exact ⟨Option.some.inj (held 1 (by decide)), fun _ => peeked2 rfl⟩
    | 2, _ => exact ⟨Option.some.inj (held 1 (by decide)), fun _ => Option.some.inj (held 2 (by decide))⟩
  rw [← Prod.eta s.fetchInstr, decoded, state, decodeOp_congr operands.1 operands.2]

/-- Settles O7: the bytes at PC decode to the fetched instruction. -/
theorem stepRunsTheDecodedInstruction : Obligations.StepRunsTheDecodedInstruction := by
  intro s i rest allowed quiet decoded plain
  rw [decode_cons] at decoded
  split at decoded
  next =>
    obtain ⟨rfl, -⟩ := Prod.mk.inj (Except.ok.inj decoded)
    rw [decodeOperands_take, fetches_decodeOp] at *
    rw [step_of_poll_none allowed quiet, State.fetchInstr_of_plain (s := s.beginTick) rfl rfl rfl plain]
    rfl
  next => cases decoded

end Sys2Proof.Machine

/-! # The addressing family: effective addresses, loads and stores, accumulator shifts (40_addressing.md R154 to R171)

An operand is reached by a chain of shared operations. Each of them, an index added to an address, a pointer read from page 0,
a read, a store, a shift of A, is described once here, with addresses and shifted bytes as numbers. -/

namespace Sys2Proof

open Machine

/-! ## Addresses as numbers -/

theorem zext16_eq_ofNat (b : Byte) : zext16 b = BitVec.ofNat 16 b.toNat := (BitVec.ofNat_toNat 16 b).symm

/-- A byte index is added in page 0, without a carry (40_addressing.md R156, R157). -/
theorem zext16_add (b i : Byte) : zext16 (b + i) = BitVec.ofNat 16 ((b.toNat + i.toNat) % 256) := by
  rw [zext16_eq_ofNat, BitVec.toNat_add]

/-- A byte index is added to a word modulo 65536 (40_addressing.md R159, R160, R163). -/
theorem add_zext16 (w : Word) (i : Byte) : w + zext16 i = BitVec.ofNat 16 (w.toNat + i.toNat) := by
  rw [BitVec.ofNat_add, BitVec.ofNat_toNat, BitVec.setWidth_eq, zext16_eq_ofNat]

/-- The low byte of a word assembled from two. -/
theorem wordOf_toNat_mod (lo hi : Byte) : (wordOf lo hi).toNat % 256 = lo.toNat := by
  rw [← lo8_toNat, lo8_wordOf]

/-- Settles O23: the operand, or an index added to it in its page or to the word. -/
theorem directAddresses : Obligations.DirectAddresses := by
  intro s b w
  have indexed (i : Byte) : (w + zext16 i, pageCross w (w + zext16 i), s) =
      (BitVec.ofNat 16 (w.toNat + i.toNat), decide (256 ≤ w.toNat % 256 + i.toNat), s) := by
    rw [pageCross_index, add_zext16]
  refine ⟨?_, ?_, ?_, rfl, indexed s.x, indexed s.y⟩
  · rw [Mem.resolve, zext16_eq_ofNat]
  · rw [Mem.resolve, zext16_add]
  · rw [Mem.resolve, zext16_add]

end Sys2Proof

namespace Sys2Proof.Machine

/-! ## Pointers of page 0 -/

/-- A read of plain memory gives the byte there (20_memory.md R82, R101). -/
theorem State.memRead_value {s : State} {k : Word} (h : s.plain k = true) : (s.memRead k).1 = s.mem.peek k.toNat := by
  rw [State.memRead_of_plain h]

/-- A pointer is two reads in page 0, low byte first (20_memory.md R87). -/
theorem State.readWordZP_reads (s : State) (p : Byte) : ∃ lo hi t, s.readWordZP p = (wordOf lo hi, t) ∧
    t.bus = s.bus ++ [.read (zext16 p) lo, .read (zext16 (p + 1#8)) hi] ∧
    (s.plain (zext16 p) = true → lo = s.mem.peek p.toNat) ∧
    (s.plain (zext16 (p + 1#8)) = true → hi = s.mem.peek (p + 1#8).toNat) := by
  refine ⟨_, _, _, State.readWordZP_eq s p, by simp, fun plain => ?_, fun plain => ?_⟩
  · rw [State.memRead_value plain, zext16_toNat]
  · rw [State.memRead_value (by rwa [State.memRead_plain]), State.memRead_mem, zext16_toNat]

/-- Settles O24: both modes read one pointer of page 0, and Y is added to it as to an absolute address. -/
theorem indirectAddresses : Obligations.IndirectAddresses := by
  intro s b
  constructor
  · obtain ⟨lo, hi, t, read, reads⟩ := s.readWordZP_reads (b + s.x)
    exact ⟨lo, hi, t, by rw [Mem.resolve, read], reads⟩
  · obtain ⟨lo, hi, t, read, reads⟩ := s.readWordZP_reads b
    refine ⟨lo, hi, t, ?_, reads⟩
    rw [Mem.resolve, read]
    dsimp only
    rw [pageCross_index, add_zext16, wordOf_toNat_mod]

/-- Settles O25: the target that the assembler inverts. -/
theorem branchTargetIsSigned : Obligations.BranchTargetIsSigned := branchTarget_toNat

/-! ## Loads and stores -/

/-- Settles O26: a load of memory is one read after the pointer reads, and neither changes the machine. -/
theorem loadReadsTheOperand : Obligations.LoadReadsTheOperand := by
  refine ⟨fun _ _ => rfl, fun m s => ⟨_, _, Src.load_of_mem m s, State.memRead_bus _ _, fun plain => ?_, ?_⟩⟩
  · rw [State.memRead_value (by rwa [Mem.resolve_plain]), Mem.resolve_mem]
  · have regs : RegsKept s ((m.resolve s).2.2.memRead (m.resolve s).1).2 [] :=
      .of_reads (by simp) (by simp) (by simp) (by simp)
    exact ⟨fun r => regs r List.not_mem_nil, by simp, by simp, by simp, by simp [RestKept]⟩

/-- A store writes one byte, at the effective address, and nothing else (40_addressing.md R169). -/
theorem store_frame_storesByte (i : Instr) (m : Mem) (v : Byte) (s : State) :
    Frame s ((m.store s v).finish (i.cycles false 0)) [] [] ∧
      StoresByte i m v s ((m.store s v).finish (i.cycles false 0)) := by
  constructor
  · exact ⟨.of_reads (by simp) (by simp) (by simp) (by simp), .of_eq (by simp) [], by simp [RestKept]⟩
  · exact ⟨fun _ hk => Mem.store_peek_ne m s v (hk _ (List.mem_singleton_self _)), Mem.store_peek_same m v,
      State.memWrite_bus _ _ _, by simp, by simp [Reports]⟩

/-- Settles O33: each instruction is one store of its register. -/
theorem storesWriteOneByte : Obligations.StoresWriteOneByte := fun m s =>
  ⟨⟨rfl, _, exec_sta m s, store_frame_storesByte (.sta m) m s.a s⟩,
    ⟨rfl, _, exec_stx m s, store_frame_storesByte (.stx m) m s.x s⟩,
    ⟨rfl, _, exec_sty m s, store_frame_storesByte (.sty m) m s.y s⟩⟩

/-! ## Shifts of the accumulator -/

theorem aluAsl_toNat (v : Byte) : (aluAsl v).1.toNat = 2 * v.toNat % 256 := by
  simp [aluAsl, Nat.shiftLeft_eq, Nat.mul_comm]

theorem aluLsr_toNat (v : Byte) : (aluLsr v).1.toNat = v.toNat / 2 := by
  simp [aluLsr, Nat.shiftRight_eq_div_pow]

/-- The old carry fills the bit that a left shift frees (41_alu.md R187). -/
theorem aluRol_toNat (c : Bool) (v : Byte) : (aluRol c v).1.toNat = (2 * v.toNat + c.toNat) % 256 := by
  have free : v <<< 1 &&& bitByte c = 0#8 := by
    ext i
    cases c <;> simp +contextual [bitByte]
  have carry : (bitByte c).toNat = c.toNat := by cases c <;> rfl
  rw [aluRol, ← BitVec.add_eq_or_of_and_eq_zero _ _ free, BitVec.toNat_add, BitVec.toNat_shiftLeft, carry,
    Nat.shiftLeft_eq]
  omega

/-- The old carry fills the bit that a right shift frees (41_alu.md R187). -/
theorem aluRor_toNat (c : Bool) (v : Byte) : (aluRor c v).1.toNat = v.toNat / 2 + 128 * c.toNat := by
  have free : v.toNat / 2 < 2 ^ 7 := by
    have := v.isLt
    omega
  have carry : (bitByte c <<< 7).toNat = 2 ^ 7 * c.toNat := by cases c <;> rfl
  rw [aluRor, BitVec.toNat_or, BitVec.toNat_ushiftRight, Nat.shiftRight_eq_div_pow, carry, Nat.or_comm,
    ← Nat.two_pow_add_eq_or_of_lt free, Nat.add_comm]

/-- No flag is bit 4 or 5 of P, so writing a listed flag keeps what the list leaves out. -/
theorem FlagsKept.setFlag {s t : State} {l : List Flag} (h : FlagsKept s t l) {f : Flag} (hf : f ∈ l) (b : Bool) :
    FlagsKept s (t.setFlag f b) l := by
  obtain ⟨flags, bit4, bit5⟩ := h
  refine ⟨fun g hg => ?_, ?_, ?_⟩
  · rw [State.setFlag_flag, if_neg (ne_of_mem_of_not_mem hf hg).symm, flags g hg]
  · rw [← bit4]
    cases f <;> simp [Flag.bit]
  · rw [← bit5]
    cases f <;> simp [Flag.bit]

theorem FlagsKept.setNZ {s t : State} {l : List Flag} (h : FlagsKept s t l) (hn : .n ∈ l) (hz : .z ∈ l) (r : Byte) :
    FlagsKept s (t.setNZ r) l :=
  (h.setFlag hn _).setFlag hz _

theorem FlagsKept.finish {s t : State} {l : List Flag} (h : FlagsKept s t l) (n : Nat) : FlagsKept s (t.finish n) l := h

/-- A shift of A: the result in A, C the bit shifted out, N and Z from the result, no access (40_addressing.md R171). -/
theorem shift_acc {i : Instr} (f : Byte → Byte × Bool) (s : State) (cycles : i.cycles false 0 = 2) :
    ∃ t, shift i .acc f s = .next t ∧ t.a = (f s.a).1 ∧ t.flag .c = (f s.a).2 ∧ NZ t t.a ∧
      Frame s t [.a] [.n, .z, .c] ∧ Internal s t 2 := by
  have flags : FlagsKept s { s with a := (f s.a).1 } [.n, .z, .c] := .of_eq rfl _
  refine ⟨_, rfl, rfl, by simp, .of_flags (by simp) (by simp), ⟨?_, ?_, by simp [RestKept]⟩, .of_eq rfl, rfl, rfl, ?_⟩
  · exact .of_reads (by simp) (by simp) (by simp) (by simp)
  · exact ((flags.setFlag (by simp) _).setNZ (by simp) (by simp) _).finish _
  · rw [cycles]
    rfl

/-- Settles O47: each instruction is a shift of A by its function, whose result is a number. -/
theorem shiftsOfTheAccumulator : Obligations.ShiftsOfTheAccumulator := by
  intro s
  obtain ⟨t1, asl, asl_a, aslRest⟩ := shift_acc (i := .asl .acc) aluAsl s rfl
  obtain ⟨t2, lsr, lsr_a, lsrRest⟩ := shift_acc (i := .lsr .acc) aluLsr s rfl
  obtain ⟨t3, rol, rol_a, rolRest⟩ := shift_acc (i := .rol .acc) (aluRol (s.flag .c)) s rfl
  obtain ⟨t4, ror, ror_a, rorRest⟩ := shift_acc (i := .ror .acc) (aluRor (s.flag .c)) s rfl
  exact ⟨⟨rfl, t1, asl, by rw [asl_a, aluAsl_toNat], aslRest⟩, ⟨rfl, t2, lsr, by rw [lsr_a, aluLsr_toNat], lsrRest⟩,
    ⟨rfl, t3, rol, by rw [rol_a, aluRol_toNat], rolRest⟩, ⟨rfl, t4, ror, by rw [ror_a, aluRor_toNat], rorRest⟩⟩

end Sys2Proof.Machine

/-! # The ALU family: addition, subtraction, comparison, BIT, and what D decides (41_alu.md R176 to R190)

The results and flags of the ALU are numbers here, so that an instruction that reads its operand is its load, an ALU function and
the flags it writes. That the other instructions do not compute with D is a fact about the shared operations: each of them gives
the same in states that differ in one flag alone, and leaves that difference in place. -/

namespace Sys2Proof.Machine

/-! ## Binary results and flags as numbers -/

theorem aluAdd_c_iff (a b : Byte) (c : Bool) : (aluAdd a b c).c = true ↔ 256 ≤ a.toNat + b.toNat + c.toNat :=
  decide_eq_true_iff

/-- V of ADD is the signed overflow of the sum (41_alu.md R178). -/
theorem aluAdd_v_iff (a b : Byte) (c : Bool) :
    (aluAdd a b c).v = true ↔ a.toInt + b.toInt + c.toNat < -128 ∨ 127 < a.toInt + b.toInt + c.toNat := by
  have carry := c.toNat_le
  have sum := aluAdd_r_toNat a b c
  have := a.isLt
  have := b.isLt
  simp only [aluAdd_v, toInt_eq_toNat, getLsbD_seven, Bool.and_eq_true, beq_iff_eq, bne_iff_ne, ne_eq, decide_eq_decide,
    decide_eq_true_eq]
  omega

theorem aluAdd_z_iff (a b : Byte) (c : Bool) : (aluAdd a b c).z = true ↔ (a.toNat + b.toNat + c.toNat) % 256 = 0 := by
  rw [← aluAdd_r_toNat]
  exact beq_zero_iff _

theorem aluAdd_n_iff (a b : Byte) (c : Bool) : (aluAdd a b c).n = true ↔ 128 ≤ (a.toNat + b.toNat + c.toNat) % 256 := by
  rw [← aluAdd_r_toNat]
  exact getLsbD_seven_iff _

/-- The borrow that SUB takes in is the absence of a carry (41_alu.md R179). -/
theorem borrow_toNat (c : Bool) : ((!c).toNat : Int) = 1 - c.toNat := by cases c <;> rfl

/-- The complement as a signed number. -/
theorem toInt_not (b : Byte) : (~~~b).toInt = -1 - b.toInt := by
  have := b.isLt
  rw [BitVec.toInt_eq_toNat_cond, BitVec.toInt_eq_toNat_cond, BitVec.toNat_not]
  omega

/-- SUB adds the complement, with the absence of a borrow as the carry (41_alu.md R179). -/
theorem aluSub_r_toNat (a b : Byte) (c : Bool) :
    ((aluSub a b c).r.toNat : Int) = ((a.toNat : Int) - b.toNat - (!c).toNat) % 256 := by
  have := b.isLt
  have := borrow_toNat c
  rw [aluSub, aluAdd_r_toNat, BitVec.toNat_not]
  omega

theorem aluSub_c_iff (a b : Byte) (c : Bool) :
    (aluSub a b c).c = true ↔ 0 ≤ (a.toNat : Int) - b.toNat - (!c).toNat := by
  have := b.isLt
  have := borrow_toNat c
  rw [aluSub, aluAdd_c_iff, BitVec.toNat_not]
  omega

theorem aluSub_v_iff (a b : Byte) (c : Bool) :
    (aluSub a b c).v = true ↔ a.toInt - b.toInt - (!c).toNat < -128 ∨ 127 < a.toInt - b.toInt - (!c).toNat := by
  have := borrow_toNat c
  rw [aluSub, aluAdd_v_iff, toInt_not]
  omega

theorem aluSub_z_iff (a b : Byte) (c : Bool) :
    (aluSub a b c).z = true ↔ ((a.toNat : Int) - b.toNat - (!c).toNat) % 256 = 0 := by
  rw [← aluSub_r_toNat, Int.natCast_eq_zero]
  exact beq_zero_iff _

theorem aluSub_n_iff (a b : Byte) (c : Bool) :
    (aluSub a b c).n = true ↔ 128 ≤ ((a.toNat : Int) - b.toNat - (!c).toNat) % 256 := by
  rw [← aluSub_r_toNat]
  exact (getLsbD_seven_iff _).trans Int.ofNat_le.symm

/-! ## Decimal digits -/

/-- A byte is its two nibbles. -/
theorem toNat_eq_nibbles (v : Byte) : v.toNat = hiNibble v * 16 + loNibble v := by
  rw [loNibble_eq, hiNibble_eq]
  omega

/-- A byte of two decimal digits is packed and has their value. -/
theorem bcd_of_digits {v : Byte} {hi lo : Nat} (h : v.toNat = hi * 16 + lo) (hhi : hi ≤ 9) (hlo : lo ≤ 9) :
    validBcd v ∧ bcdValue v = hi * 10 + lo := by
  rw [validBcd, bcdValue, loNibble_eq, hiNibble_eq]
  omega

theorem bcdValue_le {v : Byte} (h : validBcd v) : bcdValue v ≤ 99 := by
  obtain ⟨lo, hi⟩ := h
  rw [bcdValue]
  omega

/-- The correction by 6 leaves a decimal digit, and takes 10 from the sum when it carries (41_alu.md R180). -/
theorem digit_of_add {n : Nat} (h : n ≤ 19) :
    (if n > 9 then n + 6 else n) % 16 ≤ 9 ∧
      (if n > 9 then n + 6 else n) % 16 + 10 * (if n > 9 then 1 else 0) = n := by
  split <;> omega

/-- The correction by 6 leaves a decimal digit, and adds 10 to the difference when it borrows (41_alu.md R181). -/
theorem digit_of_sub {n : Int} (low : -10 ≤ n) (high : n ≤ 9) : ∃ digit borrow : Nat, digit ≤ 9 ∧ borrow ≤ 1 ∧
    (if n < 0 then n - 6 else n) % 16 = digit ∧ (if n < 0 then 1 else 0) = (borrow : Int) ∧ n + 10 * borrow = digit := by
  by_cases negative : n < 0
  · exact ⟨(n + 10).toNat, 1, by simp only [negative, if_true]; omega⟩
  · exact ⟨n.toNat, 0, by simp only [negative, if_false]; omega⟩

/-- The corrected low sum of two digits carries into the high digit when it is 10 or more. -/
theorem decimalAddHc_of_validBcd {a b : Byte} {c : Bool} (ha : validBcd a) (hb : validBcd b) :
    decimalAddHc a b c = if loNibble a + loNibble b + c.toNat > 9 then 1 else 0 := by
  obtain ⟨loA, -⟩ := ha
  obtain ⟨loB, -⟩ := hb
  have carry := c.toNat_le
  have corrected : decimalAddLo a b c > 0x0F ↔ loNibble a + loNibble b + c.toNat > 9 := by
    rw [decimalAddLo]
    split <;> omega
  simp only [decimalAddHc, corrected]

/-- Decimal ADD keeps the value of its operands and its carry (41_alu.md R180). -/
theorem decimalAdd_value {a b : Byte} (c : Bool) (ha : validBcd a) (hb : validBcd b) :
    validBcd (decimalAdd a b c).1 ∧
      bcdValue (decimalAdd a b c).1 + 100 * (decimalAdd a b c).2.toNat = bcdValue a + bcdValue b + c.toNat := by
  have hc := decimalAddHc_of_validBcd (c := c) ha hb
  obtain ⟨loA, hiA⟩ := ha
  obtain ⟨loB, hiB⟩ := hb
  have carry := c.toNat_le
  have carryLo : (if loNibble a + loNibble b + c.toNat > 9 then 1 else 0) ≤ 1 := by split <;> simp
  obtain ⟨lo_le, lo⟩ := digit_of_add (n := loNibble a + loNibble b + c.toNat) (by omega)
  obtain ⟨hi_le, hi⟩ := digit_of_add (n := hiNibble a + hiNibble b + decimalAddHc a b c) (by omega)
  obtain ⟨valid, value⟩ := bcd_of_digits (decimalAdd_toNat a b c) hi_le lo_le
  have carryOut : (decimalAdd a b c).2.toNat = if hiNibble a + hiNibble b + decimalAddHc a b c > 9 then 1 else 0 :=
    Bool.cond_decide _ 1 0
  refine ⟨valid, ?_⟩
  rw [value, carryOut, decimalAddLo, bcdValue, bcdValue]
  omega

/-- Decimal SUB keeps the value of its operands and a borrow of 100 (41_alu.md R181). -/
theorem decimalSub_value {a b : Byte} (c : Bool) (ha : validBcd a) (hb : validBcd b) :
    validBcd (decimalSub a b c) ∧
      ∃ borrow : Nat, bcdValue (decimalSub a b c) + bcdValue b + (!c).toNat = bcdValue a + 100 * borrow := by
  obtain ⟨loA, hiA⟩ := ha
  obtain ⟨loB, hiB⟩ := hb
  have borrowIn := borrow_toNat c
  have digits := decimalSub_toNat a b c
  dsimp only at digits
  obtain ⟨lo, borrow, lo_le, borrow_le, loDigit, borrows, loValue⟩ :=
    digit_of_sub (n := (loNibble a : Int) - loNibble b - (1 - c.toNat)) (by omega) (by omega)
  rw [loDigit, borrows] at digits
  obtain ⟨hi, borrowOut, hi_le, -, hiDigit, -, hiValue⟩ :=
    digit_of_sub (n := (hiNibble a : Int) - hiNibble b - borrow) (by omega) (by omega)
  rw [hiDigit] at digits
  obtain ⟨valid, value⟩ := bcd_of_digits (v := decimalSub a b c) (by exact_mod_cast digits) hi_le lo_le
  refine ⟨valid, borrowOut, ?_⟩
  rw [value]
  simp only [bcdValue]
  omega

/-- Packed digits are ordered as the numbers they stand for. -/
theorem bcd_borrow {a b : Byte} (n : Nat) (ha : validBcd a) (hb : validBcd b) (hn : n ≤ 1) :
    0 ≤ (a.toNat : Int) - b.toNat - n ↔ bcdValue b + n ≤ bcdValue a := by
  obtain ⟨loA, -⟩ := ha
  obtain ⟨loB, -⟩ := hb
  rw [toNat_eq_nibbles a, toNat_eq_nibbles b, bcdValue, bcdValue]
  omega

/-- Settles O40: the carry and the borrow of 100 are what the valid two-digit results leave. -/
theorem decimalDigitsAreDecimal : Obligations.DecimalDigitsAreDecimal := by
  intro a b c ha hb
  obtain ⟨addValid, sum⟩ := decimalAdd_value c ha hb
  obtain ⟨subValid, borrow, difference⟩ := decimalSub_value c ha hb
  have sumDigits := bcdValue_le addValid
  have differenceDigits := bcdValue_le subValid
  have subtrahend := bcdValue_le hb
  have borrowIn := (!c).toNat_le
  refine ⟨addValid, subValid, by omega, ?_, by omega, ?_⟩
  · rw [← sum]
    cases (decimalAdd a b c).2
    · exact iff_of_false Bool.false_ne_true (by rw [Bool.toNat_false]; omega)
    · exact iff_of_true rfl (by rw [Bool.toNat_true]; omega)
  · rw [aluSub_c_iff, bcd_borrow _ ha hb borrowIn]

/-! ## Instructions that read their operand -/

theorem FlagsKept.setNZC {s t : State} {l : List Flag} (h : FlagsKept s t l) (f : AluResult) (hn : .n ∈ l := by decide)
    (hz : .z ∈ l := by decide) (hc : .c ∈ l := by decide) : FlagsKept s (t.setNZC f) l :=
  ((h.setFlag hn _).setFlag hz _).setFlag hc _

theorem FlagsKept.setNVZC {s t : State} {l : List Flag} (h : FlagsKept s t l) (f : AluResult) (hn : .n ∈ l := by decide)
    (hv : .v ∈ l := by decide) (hz : .z ∈ l := by decide) (hc : .c ∈ l := by decide) : FlagsKept s (t.setNVZC f) l :=
  (((h.setFlag hn _).setFlag hv _).setFlag hz _).setFlag hc _

/-- An instruction that ends after its load, having written registers and flags alone, reads its operand. -/
theorem ReadsOperand.of_finish {i : Instr} {m : Src} {s u : State} (mem : u.mem = s.mem := by simp)
    (bus : u.bus = (m.load s).2.2.bus := by simp) (pc : u.pc = s.pc := by simp) (result : u.result = s.result := by simp) :
    ReadsOperand i m s (u.finish (i.cycles (m.load s).2.1 0)) :=
  ⟨.of_eq mem, bus, pc, by rw [Reports, ← result]; rfl⟩

/-- The end of ADC and SBC (44_arithmetic.md R226, R227): the result in A, its four flags in P. -/
def State.accumulated (s : State) (i : Instr) (m : Src) (f : AluResult) : State :=
  (State.setNVZC { (m.load s).2.2 with a := f.r } f).finish (i.cycles (m.load s).2.1 0)

theorem exec_adc_accumulated (m : Src) (s : State) : exec (.adc m) s =
    .next (s.accumulated (.adc m) m (aluAdc s.params.decimalNV (s.flag .d) s.a (m.load s).1 (s.flag .c))) :=
  exec_adc m s

theorem exec_sbc_accumulated (m : Src) (s : State) : exec (.sbc m) s =
    .next (s.accumulated (.sbc m) m (aluSbc (s.flag .d) s.a (m.load s).1 (s.flag .c))) :=
  exec_sbc m s

section
variable (s : State) (i : Instr) (m : Src) (f : AluResult)

@[simp] theorem State.accumulated_a : (s.accumulated i m f).a = f.r := rfl
@[simp] theorem State.accumulated_n : (s.accumulated i m f).flag .n = f.n := by simp [State.accumulated]
@[simp] theorem State.accumulated_v : (s.accumulated i m f).flag .v = f.v := by simp [State.accumulated]
@[simp] theorem State.accumulated_z : (s.accumulated i m f).flag .z = f.z := by simp [State.accumulated]
@[simp] theorem State.accumulated_c : (s.accumulated i m f).flag .c = f.c := by simp [State.accumulated]

/-- ADC and SBC write A and four flags, and read their operand. -/
theorem State.accumulated_frame_reads :
    Frame s (s.accumulated i m f) [.a] [.n, .v, .z, .c] ∧ ReadsOperand i m s (s.accumulated i m f) := by
  have loaded : FlagsKept s { (m.load s).2.2 with a := f.r } [.n, .v, .z, .c] := .of_eq (Src.load_p m s) _
  exact ⟨⟨.of_reads (by simp) (by simp [State.accumulated]) (by simp [State.accumulated]) (by simp [State.accumulated]),
    (loaded.setNVZC f).finish _, by simp [RestKept, State.accumulated]⟩, .of_finish⟩

end

/-! ## ADC and SBC -/

/-- Settles O37: with D = 0 the ALU adds in binary. -/
theorem adcBinarySum : Obligations.AdcBinarySum := by
  intro m s hd
  have binary : exec (.adc m) s = .next (s.accumulated (.adc m) m (aluAdd s.a (m.load s).1 (s.flag .c))) := by
    rw [exec_adc_accumulated, hd]
    rfl
  exact ⟨_, binary, aluAdd_r_toNat .., by rw [State.accumulated_c, aluAdd_c_iff],
    by rw [State.accumulated_v, aluAdd_v_iff], .of_flags (State.accumulated_n ..) (State.accumulated_z ..),
    State.accumulated_frame_reads ..⟩

theorem aluSbc_decimal (a b : Byte) (c : Bool) : aluSbc true a b c = { aluSub a b c with r := decimalSub a b c } := rfl

theorem aluAdc_decimal (nv : DecimalNV) (a b : Byte) (c : Bool) : aluAdc nv true a b c =
    { r := (decimalAdd a b c).1
      n := decimalAddN nv a b c
      v := decimalAddV nv a b c
      z := (aluAdd a b c).z
      c := (decimalAdd a b c).2 } := rfl

/-- In both modes SBC has the flags of the binary difference (41_alu.md R182). -/
theorem aluSbc_flags (d : Bool) (a b : Byte) (c : Bool) :
    (aluSbc d a b c).n = (aluSub a b c).n ∧ (aluSbc d a b c).v = (aluSub a b c).v ∧
      (aluSbc d a b c).z = (aluSub a b c).z ∧ (aluSbc d a b c).c = (aluSub a b c).c := by
  cases d <;> exact ⟨rfl, rfl, rfl, rfl⟩

/-- Settles O39: the flags of the binary difference in both modes, and the result of the mode. -/
theorem sbcInBothModes : Obligations.SbcInBothModes := by
  intro m s
  obtain ⟨n, v, z, c⟩ := aluSbc_flags (s.flag .d) s.a (m.load s).1 (s.flag .c)
  refine ⟨_, exec_sbc_accumulated m s, ⟨fun binary => ?_, fun decimal => ?_, ?_, ?_, ?_, ?_⟩, State.accumulated_frame_reads ..⟩
  · rw [State.accumulated_a, binary]
    exact aluSub_r_toNat ..
  · have digits := decimalSub_toNat s.a (m.load s).1 (s.flag .c)
    rw [← borrow_toNat] at digits
    rw [State.accumulated_a, decimal, aluSbc_decimal]
    simpa only [loNibble_eq, hiNibble_eq] using digits
  · rw [State.accumulated_c, c]
    exact aluSub_c_iff ..
  · rw [State.accumulated_z, z]
    exact aluSub_z_iff ..
  · rw [State.accumulated_n, n]
    exact aluSub_n_iff ..
  · rw [State.accumulated_v, v]
    exact aluSub_v_iff ..

/-- The corrected low sum as a number (41_alu.md R180). -/
theorem decimalAddLo_eq (a b : Byte) (c : Bool) : decimalAddLo a b c =
    if 9 < a.toNat % 16 + b.toNat % 16 + c.toNat then a.toNat % 16 + b.toNat % 16 + c.toNat + 6
    else a.toNat % 16 + b.toNat % 16 + c.toNat := by
  simp only [decimalAddLo, loNibble_eq, gt_iff_lt]

/-- Bit 7 of a signed integer taken as a byte. -/
theorem ofInt_signBit_iff (n : Int) : (BitVec.ofInt 8 n).getLsbD 7 = true ↔ 128 ≤ n % 256 := by
  rw [getLsbD_seven_iff, BitVec.toNat_ofInt]
  omega

/-- The sum before the high correction as a number (41_alu.md R182). -/
theorem nmosIntermediate_eq (a b : Byte) (c : Bool) : nmosIntermediate a b c = (a &&& 0xF0#8).toInt + (b &&& 0xF0#8).toInt +
    ((decimalAddLo a b c % 16 + if 15 < decimalAddLo a b c then 16 else 0 : Nat) : Int) := by
  simp only [nmosIntermediate, decimalAddHc, gt_iff_lt, mul_ite, mul_one, mul_zero]

/-- Settles O38: with D = 1 the digits are those of decimal ADD, Z is binary, N and V are those the parameter names. -/
theorem adcDecimalDigitsAndFlags : Obligations.AdcDecimalDigitsAndFlags := by
  intro m s decimal
  have executed := exec_adc_accumulated m s
  rw [decimal, aluAdc_decimal] at executed
  refine ⟨_, executed, ?_, State.accumulated_frame_reads ..⟩
  rw [State.accumulated_a, State.accumulated_n, State.accumulated_v, State.accumulated_z, State.accumulated_c]
  simp only [← decimalAddLo_eq, ← nmosIntermediate_eq]
  generalize (m.load s).1 = v
  refine ⟨?_, ?_, aluAdd_z_iff .., fun binary => ?_, fun intermediate => ?_⟩
  · simpa only [decimalAddHc, hiNibble_eq, gt_iff_lt] using decimalAdd_toNat s.a v (s.flag .c)
  · simp only [decimalAdd, decimalAddHc, hiNibble_eq, gt_iff_lt, decide_eq_true_iff]
  · rw [binary, decimalAddN, decimalAddV, aluAdd_n_iff, aluAdd_v_iff]
    exact ⟨Iff.rfl, Iff.rfl⟩
  · rw [intermediate, decimalAddN, decimalAddV, ofInt_signBit_iff, decide_eq_true_iff]
    exact ⟨Iff.rfl, Iff.rfl⟩

/-! ## The compares and BIT -/

/-- Equal operands are those whose difference is 0 (41_alu.md R185). -/
theorem aluCmp_z (a b : Byte) : (aluCmp a b).z = ((aluCmp a b).r == 0#8) := by
  simp [aluCmp, BitVec.sub_eq_iff_eq_add]

theorem compare_eq (i : Instr) (reg : Byte) (m : Src) (s : State) : compare i reg m s =
    .next (((m.load s).2.2.setNZC (aluCmp reg (m.load s).1)).finish (i.cycles (m.load s).2.1 0)) := rfl

/-- What the compares do, whatever register they compare (44_arithmetic.md R228 to R230). -/
theorem compare_sets (i : Instr) (reg : Byte) (m : Src) (s : State) :
    ∃ t, compare i reg m s = .next t ∧ (t.flag .c = true ↔ (m.load s).1.toNat ≤ reg.toNat) ∧
      NZ t (reg - (m.load s).1) ∧ (t.flag .z = true ↔ reg = (m.load s).1) ∧ Frame s t [] [.n, .z, .c] ∧ ReadsOperand i m s t := by
  have loaded : FlagsKept s (m.load s).2.2 [.n, .z, .c] := .of_eq (Src.load_p m s) _
  refine ⟨_, compare_eq i reg m s, ?_, .of_flags ?_ ?_, ?_, ⟨?_, (loaded.setNZC _).finish _, ?_⟩, .of_finish⟩
  · simp [aluCmp]
  · simp [aluCmp]
  · rw [State.finish_flag, State.setNZC_flag]
    exact aluCmp_z reg _
  · simp [aluCmp]
  · exact .of_reads (by simp) (by simp) (by simp) (by simp)
  · simp [RestKept]

/-- Settles O42: each instruction is a compare of its register. -/
theorem comparesSetOnlyNZC : Obligations.ComparesSetOnlyNZC := fun m s =>
  ⟨⟨rfl, compare_sets (.cmp m) s.a m s⟩, ⟨rfl, compare_sets (.cpx m) s.x m s⟩, ⟨rfl, compare_sets (.cpy m) s.y m s⟩⟩

/-- Settles O46: BIT is a load and three flags. -/
theorem bitTestsTheOperand : Obligations.BitTestsTheOperand := by
  intro m s
  have loaded : FlagsKept s ((Src.mem m).load s).2.2 [.n, .v, .z] := .of_eq (Src.load_p _ s) _
  have executed := exec_bit m s
  rw [Mem.load] at executed
  exact ⟨rfl, _, executed, by simp, by simp, by simp,
    ⟨.of_reads (by simp) (by simp) (by simp) (by simp),
      (((loaded.setFlag (by simp) _).setFlag (by simp) _).setFlag (by simp) _).finish _, by simp [RestKept]⟩, .of_finish⟩

/-! ## The shared operations do not read the flags -/

theorem putBit_self (p : Byte) (k : Nat) : putBit p k (p.getLsbD k) = p := by
  apply BitVec.eq_of_getLsbD_eq
  intro j hj
  rw [getLsbD_putBit]
  split
  next h => rw [h.1]
  next => rfl

theorem putBit_putBit_same (p : Byte) (k : Nat) (b c : Bool) : putBit (putBit p k b) k c = putBit p k c := by
  apply BitVec.eq_of_getLsbD_eq
  intro j hj
  simp only [getLsbD_putBit]
  split <;> rfl

theorem putBit_comm (p : Byte) {j k : Nat} (h : j ≠ k) (b c : Bool) :
    putBit (putBit p k b) j c = putBit (putBit p j c) k b := by
  apply BitVec.eq_of_getLsbD_eq
  intro i hi
  simp only [getLsbD_putBit]
  by_cases hij : i = j
  · simp [hij, h]
  · simp [hij]

section
variable (s : State) (f : Flag) (b : Bool)

theorem State.setFlag_self : s.setFlag f (s.flag f) = s := by
  rw [State.setFlag, State.flag, flagOf, putBit_self]

theorem State.setFlag_setFlag_same (c : Bool) : (s.setFlag f b).setFlag f c = s.setFlag f c := by
  simp only [State.setFlag, putBit_putBit_same]

theorem State.setFlag_comm {g : Flag} (h : g ≠ f) (c : Bool) :
    (s.setFlag f b).setFlag g c = (s.setFlag g c).setFlag f b := by
  simp only [State.setFlag, putBit_comm s.p (mt Flag.bit_injective h)]

@[simp] theorem State.memRead_setFlag (k : Word) : (s.setFlag f b).memRead k = ((s.memRead k).1, (s.memRead k).2.setFlag f b) := by
  rw [State.memRead, State.memRead, State.setFlag_plain]
  split <;> rfl

@[simp] theorem State.memWrite_setFlag (k : Word) (v : Byte) : (s.setFlag f b).memWrite k v = (s.memWrite k v).setFlag f b := by
  rw [State.memWrite, State.memWrite, State.setFlag_plain]
  split <;> rfl

@[simp] theorem State.readWordZP_setFlag (p : Byte) :
    (s.setFlag f b).readWordZP p = ((s.readWordZP p).1, (s.readWordZP p).2.setFlag f b) := by
  simp only [State.readWordZP, State.memRead_setFlag]

@[simp] theorem State.push_setFlag (v : Byte) : (s.setFlag f b).push v = (s.push v).setFlag f b := by
  rw [State.push, State.memWrite_setFlag]
  rfl

@[simp] theorem State.pull_setFlag : (s.setFlag f b).pull = (s.pull.1, s.pull.2.setFlag f b) :=
  State.memRead_setFlag { s with sp := s.sp + 1#8 } f b _

/-- PLP and RTI write all of P. -/
@[simp] theorem State.pullP_setFlag : (s.setFlag f b).pullP = s.pullP := by
  rw [State.pullP, State.pull_setFlag]
  rfl

@[simp] theorem State.returnFromInterrupt_setFlag : (s.setFlag f b).returnFromInterrupt = s.returnFromInterrupt := by
  rw [State.returnFromInterrupt, State.pullP_setFlag]
  rfl

end

end Sys2Proof.Machine

namespace Sys2Proof

open Machine

section
variable (s : State) (f : Flag) (b : Bool)

@[simp] theorem Mem.resolve_setFlag (m : Mem) :
    m.resolve (s.setFlag f b) = ((m.resolve s).1, (m.resolve s).2.1, (m.resolve s).2.2.setFlag f b) := by
  cases m <;> simp only [Mem.resolve, State.setFlag_x, State.setFlag_y, State.readWordZP_setFlag]

@[simp] theorem JmpOperand.resolve_setFlag (t : JmpOperand) :
    t.resolve (s.setFlag f b) = ((t.resolve s).1, (t.resolve s).2.setFlag f b) := by
  cases t <;> simp only [JmpOperand.resolve, State.memRead_setFlag]

@[simp] theorem Src.load_setFlag (m : Src) :
    m.load (s.setFlag f b) = ((m.load s).1, (m.load s).2.1, (m.load s).2.2.setFlag f b) := by
  cases m <;> simp only [Src.load, Mem.resolve_setFlag, State.memRead_setFlag]

@[simp] theorem Mem.load_setFlag (m : Mem) :
    m.load (s.setFlag f b) = ((m.load s).1, (m.load s).2.1, (m.load s).2.2.setFlag f b) :=
  Src.load_setFlag s f b (.mem m)

@[simp] theorem Mem.store_setFlag (m : Mem) (v : Byte) : m.store (s.setFlag f b) v = (m.store s v).setFlag f b := by
  rw [Mem.store_eq, Mem.resolve_setFlag, State.memWrite_setFlag, Mem.store_eq]

@[simp] theorem RmwMem.modify_setFlag (m : RmwMem) (g : Byte → Byte) :
    m.modify (s.setFlag f b) g = ((m.modify s g).1, (m.modify s g).2.setFlag f b) := by
  simp only [RmwMem.modify, Mem.resolve_setFlag, State.memRead_setFlag, State.memWrite_setFlag]

@[simp] theorem Rmw.modify_setFlag (m : Rmw) (g : Byte → Byte) :
    m.modify (s.setFlag f b) g = ((m.modify s g).1, (m.modify s g).2.setFlag f b) := by
  cases m with
  | acc => rfl
  | mem m => exact RmwMem.modify_setFlag s f b m g

end

end Sys2Proof

namespace Sys2Proof.Machine

/-! ## States that differ in D -/

/-- `s'` is `s` but for D. -/
def AgreeButD (s s' : State) : Prop := ∃ d, s' = s.setFlag .d d

namespace AgreeButD

variable {s s' : State}

theorem refl (s : State) : AgreeButD s s := ⟨_, (State.setFlag_self s .d).symm⟩

theorem setD (s : State) (d : Bool) : AgreeButD s (s.setFlag .d d) := ⟨d, rfl⟩

/-- An operation that commutes with writing D keeps the agreement. -/
theorem map (h : AgreeButD s s') (g : State → State) (commutes : ∀ s d, g (s.setFlag .d d) = (g s).setFlag .d d := by simp) :
    AgreeButD (g s) (g s') := by
  obtain ⟨d, rfl⟩ := h
  exact ⟨d, commutes s d⟩

/-! Where an operation takes a value, both states may say in their own words which. -/

theorem setA (h : AgreeButD s s') {v v' : Byte} (hv : v' = v := by simp) :
    AgreeButD { s with a := v } { s' with a := v' } :=
  hv ▸ h.map ({ · with a := v }) fun _ _ => rfl

theorem setX (h : AgreeButD s s') {v v' : Byte} (hv : v' = v := by simp) :
    AgreeButD { s with x := v } { s' with x := v' } :=
  hv ▸ h.map ({ · with x := v }) fun _ _ => rfl

theorem setY (h : AgreeButD s s') {v v' : Byte} (hv : v' = v := by simp) :
    AgreeButD { s with y := v } { s' with y := v' } :=
  hv ▸ h.map ({ · with y := v }) fun _ _ => rfl

theorem setSp (h : AgreeButD s s') {v v' : Byte} (hv : v' = v := by simp) :
    AgreeButD { s with sp := v } { s' with sp := v' } :=
  hv ▸ h.map ({ · with sp := v }) fun _ _ => rfl

theorem setPc (h : AgreeButD s s') {v v' : Word} (hv : v' = v := by simp) :
    AgreeButD { s with pc := v } { s' with pc := v' } :=
  hv ▸ h.map ({ · with pc := v }) fun _ _ => rfl

theorem setResult (h : AgreeButD s s') {v v' : TickResult} (hv : v' = v := by simp) :
    AgreeButD { s with result := v } { s' with result := v' } :=
  hv ▸ h.map ({ · with result := v }) fun _ _ => rfl

theorem finish (h : AgreeButD s s') {n n' : Nat} (hn : n' = n := by simp) : AgreeButD (s.finish n) (s'.finish n') :=
  hn ▸ h.map (·.finish n) fun _ _ => rfl

/-- Writing D itself makes the states equal. -/
theorem setFlag (h : AgreeButD s s') {f : Flag} {b b' : Bool} (hb : b' = b := by simp) :
    AgreeButD (s.setFlag f b) (s'.setFlag f b') := by
  obtain ⟨d, rfl⟩ := h
  rw [hb]
  by_cases hf : f = .d
  · rw [hf, State.setFlag_setFlag_same]
    exact refl _
  · exact ⟨d, State.setFlag_comm s .d d hf b⟩

theorem setNZ (h : AgreeButD s s') {r r' : Byte} (hr : r' = r := by simp) : AgreeButD (s.setNZ r) (s'.setNZ r') := by
  rw [hr]
  exact h.setFlag.setFlag

theorem setNZC (h : AgreeButD s s') {f f' : AluResult} (hf : f' = f := by simp) : AgreeButD (s.setNZC f) (s'.setNZC f') := by
  rw [hf]
  exact h.setFlag.setFlag.setFlag

theorem memRead (h : AgreeButD s s') (a : Word) : AgreeButD (s.memRead a).2 (s'.memRead a).2 := h.map fun s => (s.memRead a).2

theorem load (h : AgreeButD s s') (m : Src) : AgreeButD (m.load s).2.2 (m.load s').2.2 := h.map fun s => (m.load s).2.2

theorem resolveJmp (h : AgreeButD s s') (t : JmpOperand) : AgreeButD (t.resolve s).2 (t.resolve s').2 :=
  h.map fun s => (t.resolve s).2

theorem store (h : AgreeButD s s') {m : Mem} {v v' : Byte} (hv : v' = v := by simp) :
    AgreeButD (m.store s v) (m.store s' v') :=
  hv ▸ h.map (m.store · v)

theorem modify (h : AgreeButD s s') {m : Rmw} {g g' : Byte → Byte} (hg : g' = g := by simp) :
    AgreeButD (m.modify s g).2 (m.modify s' g').2 :=
  hg ▸ h.map fun s => (m.modify s g).2

theorem push (h : AgreeButD s s') {v v' : Byte} (hv : v' = v := by simp) : AgreeButD (s.push v) (s'.push v') :=
  hv ▸ h.map (·.push v)

theorem pull (h : AgreeButD s s') : AgreeButD s.pull.2 s'.pull.2 := h.map fun s => s.pull.2

theorem branch (h : AgreeButD s s') {c c' : Bool} {v v' : Word} {n n' m m' : Nat} (hc : c' = c := by simp)
    (hv : v' = v := by simp) (hn : n' = n := by simp) (hm : m' = m := by simp) : AgreeButD
      (if c = true then State.finish { s with pc := v } n else s.finish m)
      (if c' = true then State.finish { s' with pc := v' } n' else s'.finish m') := by
  rw [hc]
  split
  · exact (h.setPc hv).finish hn
  · exact h.finish hm

end AgreeButD

/-! ## The instructions that push P -/

/-- Nothing tells the states apart but D and memory. -/
structure AgreeButDAndMemory (s s' : State) : Prop where
  regs : ∀ r, s'.reg r = s.reg r
  pc : s'.pc = s.pc
  flags : ∀ f, f ≠ .d → s'.flag f = s.flag f
  result : s'.result = s.result

theorem AgreeButD.butMemory {s s' : State} (h : AgreeButD s s') : AgreeButDAndMemory s s' := by
  obtain ⟨d, rfl⟩ := h
  exact ⟨fun r => by cases r <;> rfl, rfl, fun f hf => by rw [State.setFlag_flag, if_neg hf], rfl⟩

theorem AgreeButD.mem {s s' : State} (h : AgreeButD s s') : s'.mem = s.mem := by
  obtain ⟨d, rfl⟩ := h
  rfl

/-- What a read gives depends on one byte of memory, the declared regions and the next free value, and so does what the next
read gives. -/
theorem State.memRead_congr {s t : State} {k : Word} (hm : s.mem.peek k.toNat = t.mem.peek k.toNat)
    (ho : s.oracle = t.oracle) (hd : s.draws = t.draws) :
    (s.memRead k).1 = (t.memRead k).1 ∧ (s.memRead k).2.draws = (t.memRead k).2.draws := by
  have plain : s.plain k = t.plain k := by simp only [State.plain, ho]
  rw [State.memRead, State.memRead, plain, hm]
  split
  · exact ⟨rfl, hd⟩
  · exact ⟨congrArg Config.freeByte hd, congrArg (· + 1) hd⟩

theorem State.readWord_congr {s t : State} {k : Word} (low : s.mem.peek k.toNat = t.mem.peek k.toNat)
    (high : s.mem.peek (k + 1#16).toNat = t.mem.peek (k + 1#16).toNat) (ho : s.oracle = t.oracle) (hd : s.draws = t.draws) :
    (s.readWord k).1 = (t.readWord k).1 := by
  obtain ⟨lo, draws⟩ := State.memRead_congr low ho hd
  obtain ⟨hi, -⟩ := State.memRead_congr (s := (s.memRead k).2) (t := (t.memRead k).2) (k := k + 1#16) (by simpa using high)
    (by simpa using ho) draws
  rw [State.readWord_eq, State.readWord_eq, lo, hi]

/-- A push stores in page 1. -/
theorem State.push_peek_above (s : State) (v : Byte) {k : Nat} (hk : 512 ≤ k) : (s.push v).mem.peek k = s.mem.peek k := by
  have := s.sp.isLt
  exact State.push_peek_ne s v (by rw [stackAddr_toNat]; omega)

theorem State.interruptEntry_pc (s : State) (b : Bool) (vector : Word) : (s.interruptEntry b vector).pc =
    (((((s.push (hi8 s.pc)).push (lo8 s.pc)).push (pushedP s.p b)).setFlag .i true).readWord vector).1 := by
  simp [State.interruptEntry]

/-- A vector outside page 1 is read as it was before the pushes, whatever they stored. -/
theorem State.interruptEntry_pc_setFlag (s : State) (f : Flag) (c b : Bool) {vector : Word} (low : 512 ≤ vector.toNat)
    (high : 512 ≤ (vector + 1#16).toNat) :
    ((s.setFlag f c).interruptEntry b vector).pc = (s.interruptEntry b vector).pc := by
  rw [State.interruptEntry_pc, State.interruptEntry_pc]
  apply State.readWord_congr
  · simp only [State.setFlag_mem, State.push_peek_above _ _ low]
  · simp only [State.setFlag_mem, State.push_peek_above _ _ high]
  · simp
  · simp

theorem State.interruptEntry_flag (s : State) (b : Bool) (vector : Word) (f : Flag) :
    (s.interruptEntry b vector).flag f = if f = .i then true else s.flag f := by
  rw [State.flag, State.interruptEntry_p]
  exact flagOf_putBit s.p .i f true

/-- Two pushes of different bytes. -/
theorem push_agree (s : State) (d : Bool) (v v' : Byte) : AgreeButDAndMemory (s.push v) ((s.setFlag .d d).push v') where
  regs r := by cases r <;> simp [State.reg]
  pc := by simp
  flags f hf := by simp [hf]
  result := by simp

/-- An entry pushes P with its D (60_exceptions.md R303). -/
theorem interruptEntry_agree (s : State) (d b : Bool) {vector : Word} (low : 512 ≤ vector.toNat)
    (high : 512 ≤ (vector + 1#16).toNat) :
    AgreeButDAndMemory (s.interruptEntry b vector) ((s.setFlag .d d).interruptEntry b vector) where
  regs r := by cases r <;> simp [State.reg]
  pc := State.interruptEntry_pc_setFlag s .d d b low high
  flags f hf := by simp [State.interruptEntry_flag, hf]
  result := by simp

theorem AgreeButDAndMemory.finish {s s' : State} (h : AgreeButDAndMemory s s') (n : Nat) :
    AgreeButDAndMemory (s.finish n) (s'.finish n) where
  regs r := by have := h.regs r; cases r <;> exact this
  pc := h.pc
  flags := h.flags
  result := by simp [h.result]

/-! ## Every instruction but ADC and SBC -/

/-- `i` does the same in `s` and in `s` with another D, but for what PHP and BRK store. -/
def IgnoresD (i : Instr) (s : State) (d : Bool) : Prop :=
  ∃ t t', exec i s = .next t ∧ exec i (s.setFlag .d d) = .next t' ∧ AgreeButDAndMemory t t' ∧
    (i ≠ .php → (∀ b, i ≠ .brk b) → t'.mem = t.mem)

/-- From operations that keep the agreement. -/
theorem IgnoresD.of_agree {i : Instr} {s t t' : State} {d : Bool} (h : exec i s = .next t)
    (h' : exec i (s.setFlag .d d) = .next t') (agree : AgreeButD s (s.setFlag .d d) → AgreeButD t t') : IgnoresD i s d :=
  have agrees := agree (.setD s d)
  ⟨t, t', h, h', agrees.butMemory, fun _ _ => agrees.mem⟩

open IgnoresD in
/-- By the operations of each instruction's meaning, in their order. -/
theorem exec_ignoresD {i : Instr} (hadc : ∀ m, i ≠ .adc m) (hsbc : ∀ m, i ≠ .sbc m) (s : State) (d : Bool) :
    IgnoresD i s d := by
  cases i with
  | adc m => exact absurd rfl (hadc m)
  | sbc m => exact absurd rfl (hsbc m)
  | lda m => exact of_agree (exec_lda m s) (exec_lda m _) fun h => (h.load m).setA.setNZ.finish
  | ldx m => exact of_agree (exec_ldx m s) (exec_ldx m _) fun h => (h.load m).setX.setNZ.finish
  | ldy m => exact of_agree (exec_ldy m s) (exec_ldy m _) fun h => (h.load m).setY.setNZ.finish
  | sta m => exact of_agree (exec_sta m s) (exec_sta m _) fun h => h.store.finish
  | stx m => exact of_agree (exec_stx m s) (exec_stx m _) fun h => h.store.finish
  | sty m => exact of_agree (exec_sty m s) (exec_sty m _) fun h => h.store.finish
  | tax => exact of_agree (exec_tax s) (exec_tax _) fun h => h.setX.setNZ.finish
  | tay => exact of_agree (exec_tay s) (exec_tay _) fun h => h.setY.setNZ.finish
  | txa => exact of_agree (exec_txa s) (exec_txa _) fun h => h.setA.setNZ.finish
  | tya => exact of_agree (exec_tya s) (exec_tya _) fun h => h.setA.setNZ.finish
  | tsx => exact of_agree (exec_tsx s) (exec_tsx _) fun h => h.setX.setNZ.finish
  | txs => exact of_agree (exec_txs s) (exec_txs _) fun h => h.setSp.finish
  | pha => exact of_agree (exec_pha s) (exec_pha _) fun h => h.push.finish
  | php => exact ⟨_, _, exec_php s, exec_php _, (push_agree s d _ _).finish 3, fun h => absurd rfl h⟩
  | pla => exact of_agree (exec_pla s) (exec_pla _) fun h => h.pull.setA.setNZ.finish
  | plp => exact of_agree (exec_plp s) (exec_plp _) fun h => by rw [State.pullP_setFlag]; exact .refl _
  | cmp m => exact of_agree (exec_cmp m s) (exec_cmp m _) fun h => (h.load m).setNZC.finish
  | cpx m => exact of_agree (exec_cpx m s) (exec_cpx m _) fun h => (h.load m).setNZC.finish
  | cpy m => exact of_agree (exec_cpy m s) (exec_cpy m _) fun h => (h.load m).setNZC.finish
  | inc m => exact of_agree (exec_inc m s) (exec_inc m _) fun h => (h.modify (m := .mem m)).setNZ.finish
  | dec m => exact of_agree (exec_dec m s) (exec_dec m _) fun h => (h.modify (m := .mem m)).setNZ.finish
  | inx => exact of_agree (exec_inx s) (exec_inx _) fun h => h.setX.setNZ.finish
  | iny => exact of_agree (exec_iny s) (exec_iny _) fun h => h.setY.setNZ.finish
  | dex => exact of_agree (exec_dex s) (exec_dex _) fun h => h.setX.setNZ.finish
  | dey => exact of_agree (exec_dey s) (exec_dey _) fun h => h.setY.setNZ.finish
  | and m => exact of_agree (exec_and m s) (exec_and m _) fun h => (h.load m).setA.setNZ.finish
  | ora m => exact of_agree (exec_ora m s) (exec_ora m _) fun h => (h.load m).setA.setNZ.finish
  | eor m => exact of_agree (exec_eor m s) (exec_eor m _) fun h => (h.load m).setA.setNZ.finish
  | bit m => exact of_agree (exec_bit m s) (exec_bit m _) fun h => (h.load (.mem m)).setFlag.setFlag.setFlag.finish
  | asl m => exact of_agree (exec_asl m s) (exec_asl m _) fun h => h.modify.setFlag.setNZ.finish
  | lsr m => exact of_agree (exec_lsr m s) (exec_lsr m _) fun h => h.modify.setFlag.setNZ.finish
  | rol m => exact of_agree (exec_rol m s) (exec_rol m _) fun h => h.modify.setFlag.setNZ.finish
  | ror m => exact of_agree (exec_ror m s) (exec_ror m _) fun h => h.modify.setFlag.setNZ.finish
  | bcc o => exact of_agree (exec_bcc o s) (exec_bcc o _) fun h => h.branch
  | bcs o => exact of_agree (exec_bcs o s) (exec_bcs o _) fun h => h.branch
  | beq o => exact of_agree (exec_beq o s) (exec_beq o _) fun h => h.branch
  | bne o => exact of_agree (exec_bne o s) (exec_bne o _) fun h => h.branch
  | bmi o => exact of_agree (exec_bmi o s) (exec_bmi o _) fun h => h.branch
  | bpl o => exact of_agree (exec_bpl o s) (exec_bpl o _) fun h => h.branch
  | bvc o => exact of_agree (exec_bvc o s) (exec_bvc o _) fun h => h.branch
  | bvs o => exact of_agree (exec_bvs o s) (exec_bvs o _) fun h => h.branch
  | jmp t => exact of_agree (exec_jmp t s) (exec_jmp t _) fun h => (h.resolveJmp t).setPc.finish
  | jsr w => exact of_agree (exec_jsr w s) (exec_jsr w _) fun h => (h.push.push.memRead _).setPc.finish
  | rts => exact of_agree (exec_rts s) (exec_rts _) fun h => h.pull.pull.setPc.finish
  | rti => exact of_agree (exec_rti s) (exec_rti _) fun h => by rw [State.returnFromInterrupt_setFlag]; exact .refl _
  | brk b =>
    have agree := interruptEntry_agree { s with pc := s.pc + 1#16 } d true (vector := 0xFFFE#16) (by decide) (by decide)
    exact ⟨_, _, exec_brk b s, exec_brk b _, agree.finish 7, fun _ h => absurd rfl (h b)⟩
  | clc => exact of_agree (exec_clc s) (exec_clc _) fun h => h.setFlag.finish
  | sec => exact of_agree (exec_sec s) (exec_sec _) fun h => h.setFlag.finish
  | cli => exact of_agree (exec_cli s) (exec_cli _) fun h => h.setFlag.finish
  | sei => exact of_agree (exec_sei s) (exec_sei _) fun h => h.setFlag.finish
  | cld => exact of_agree (exec_cld s) (exec_cld _) fun h => h.setFlag.finish
  | sed => exact of_agree (exec_sed s) (exec_sed _) fun h => h.setFlag.finish
  | clv => exact of_agree (exec_clv s) (exec_clv _) fun h => h.setFlag.finish
  | nop => exact of_agree (exec_nop s) (exec_nop _) fun h => h.finish
  | nopImp op => exact of_agree (exec_nopImp op s) (exec_nopImp op _) fun h => h.finish
  | nopImm op v => exact of_agree (exec_nopImm op v s) (exec_nopImm op v _) fun h => h.finish
  | nopZp op b => exact of_agree (exec_nopZp op b s) (exec_nopZp op b _) fun h => h.finish
  | nopZpx op b => exact of_agree (exec_nopZpx op b s) (exec_nopZpx op b _) fun h => h.finish
  | nopAbs op w => exact of_agree (exec_nopAbs op w s) (exec_nopAbs op w _) fun h => h.finish
  | nopAbsx op w => exact of_agree (exec_nopAbsx op w s) (exec_nopAbsx op w _) fun h => h.finish
  | unrecognized op =>
    have moved := (AgreeButD.setD s d).setPc (v := if s.params.unrecognizedAdvance then s.pc else s.pc - 1#16) rfl
    exact of_agree (exec_unrecognized op s) (exec_unrecognized op _) fun _ => moved.setResult rfl

/-- Settles O21: two runs that differ in D agree in all but D and the pushed copies of P. -/
theorem decimalModeAffectsOnlyAdcAndSbc : Obligations.DecimalModeAffectsOnlyAdcAndSbc := by
  intro i s t t' d hadc hsbc executed executed'
  obtain ⟨u, u', hu, hu', agree, mem⟩ := exec_ignoresD hadc hsbc s d
  obtain rfl : u = t := Host.Outcome.next.inj (hu.symm.trans executed)
  obtain rfl : u' = t' := Host.Outcome.next.inj (hu'.symm.trans executed')
  exact ⟨agree.regs, agree.pc, agree.flags, agree.result, mem⟩

end Sys2Proof.Machine

/-! # The load family: LDA, LDX and LDY (42_load_store.md R201 to R203)

A loading instruction writes its register in the state after its load, then N and Z. What it does is said once for the state `u`
between the two. -/

namespace Sys2Proof.Machine

/-- `SetNZ(v)` and the end of an instruction that has loaded its operand and has written, in `u`, the registers `l` alone. -/
theorem setNZ_finish_of_loaded {i : Instr} {m : Src} {s u : State} {l : List Reg} (v : Byte) (regs : RegsKept s u l)
    (p : u.p = s.p := by simp) (rest : RestKept s u := by simp [RestKept]) (mem : u.mem = s.mem := by simp)
    (bus : u.bus = (m.load s).2.2.bus := by simp) (pc : u.pc = s.pc := by simp) (result : u.result = s.result := by simp) :
    let t := (u.setNZ v).finish (i.cycles (m.load s).2.1 0)
    NZ t v ∧ Frame s t l [.n, .z] ∧ ReadsOperand i m s t := by
  have flags : FlagsKept s (u.setNZ v) [.n, .z] := (FlagsKept.of_eq p _).setNZ (by simp) (by simp) v
  exact ⟨.of_flags (by simp) (by simp), ⟨regs, flags.finish _, rest⟩, .of_finish mem bus pc result⟩

/-- Settles O32: each instruction puts the loaded byte in its register, and N and Z are those of that byte. -/
theorem loadsSetTheirRegister : Obligations.LoadsSetTheirRegister := fun m s =>
  ⟨⟨rfl, _, exec_lda m s, rfl, setNZ_finish_of_loaded _ (.of_reads (by simp) (by simp) (by simp) (by simp))⟩,
    ⟨rfl, _, exec_ldx m s, rfl, setNZ_finish_of_loaded _ (.of_reads (by simp) (by simp) (by simp) (by simp))⟩,
    ⟨rfl, _, exec_ldy m s, rfl, setNZ_finish_of_loaded _ (.of_reads (by simp) (by simp) (by simp) (by simp))⟩⟩

end Sys2Proof.Machine

/-! # The transfer and stack family: TAX to TXS, PHA, PHP, PLA and PLP (43_transfer_stack.md R211 to R220)

A transfer writes one register and, but for TXS, ends with SetNZ, as PLA does. What the pushing instructions share, a push and the
end of the tick, is said once, and so is what the pulling ones share. -/

namespace Sys2Proof.Machine

/-! ## Frames -/

/-- The frame of a state in which registers of `l` alone may have changed, with no flag and no latch. -/
theorem Frame.of_reads {s u : State} {l : List Reg} (a : .a ∈ l ∨ u.a = s.a := by simp) (x : .x ∈ l ∨ u.x = s.x := by simp)
    (y : .y ∈ l ∨ u.y = s.y := by simp) (sp : .sp ∈ l ∨ u.sp = s.sp := by simp) (p : u.p = s.p := by simp)
    (rest : RestKept s u := by simp [RestKept]) : Frame s u l [] :=
  ⟨.of_reads a x y sp, .of_eq p [], rest⟩

/-- `SetNZ(v)` and the end of an instruction that has written registers alone in `u` (41_alu.md R177). -/
theorem Frame.setNZ_finish {s u : State} {l : List Reg} (h : Frame s u l []) (v : Byte) (n : Nat) :
    NZ ((u.setNZ v).finish n) v ∧ Frame s ((u.setNZ v).finish n) l [.n, .z] := by
  obtain ⟨regs, ⟨flags, bits⟩, rest⟩ := h
  have kept : FlagsKept s u [.n, .z] := ⟨fun f _ => flags f List.not_mem_nil, bits⟩
  exact ⟨.of_flags (by simp) (by simp), regs, (kept.setNZ (by simp) (by simp) v).finish n, rest⟩

/-! ## Transfers -/

theorem Internal.of_finish {s u : State} {n : Nat} (mem : u.mem = s.mem := by rfl) (bus : u.bus = s.bus := by rfl)
    (pc : u.pc = s.pc := by rfl) (result : u.result = s.result := by rfl) : Internal s (u.finish n) n :=
  ⟨.of_eq mem, bus, pc, by rw [Reports, ← result, State.finish_result]⟩

/-- The end of a transfer of `v` that has written its register in `u` and sets N and Z. -/
theorem transfer_finish {s u : State} {l : List Reg} {v : Byte} (frame : Frame s u l [])
    (ends : Internal s ((u.setNZ v).finish 2) 2) :
    let t := (u.setNZ v).finish 2
    NZ t v ∧ Frame s t l [.n, .z] ∧ Internal s t 2 := by
  obtain ⟨nz, kept⟩ := frame.setNZ_finish v 2
  exact ⟨nz, kept, ends⟩

/-- Settles O34: each transfer is one register written from another, and TXS alone ends without SetNZ. -/
theorem transfersCopyRegisters : Obligations.TransfersCopyRegisters := fun s =>
  ⟨⟨rfl, _, exec_tax s, rfl, transfer_finish .of_reads .of_finish⟩,
    ⟨rfl, _, exec_tay s, rfl, transfer_finish .of_reads .of_finish⟩,
    ⟨rfl, _, exec_txa s, rfl, transfer_finish .of_reads .of_finish⟩,
    ⟨rfl, _, exec_tya s, rfl, transfer_finish .of_reads .of_finish⟩,
    ⟨rfl, _, exec_tsx s, rfl, transfer_finish .of_reads .of_finish⟩,
    ⟨rfl, _, exec_txs s, rfl, .of_reads, .of_finish⟩⟩

/-! ## Pushes -/

/-- An instruction that pushes one byte and ends: it writes SP and the byte at the stack address (20_memory.md R92). -/
theorem push_finish (s : State) (v : Byte) (n : Nat) :
    let t := (s.push v).finish n
    t.sp = s.sp - 1#8 ∧ Frame s t [.sp] [] ∧ t.pc = s.pc ∧ MemKeptBut s t [stackAddr s.sp] ∧ Holds s t (stackAddr s.sp) v ∧
      t.bus = s.bus ++ [.write (stackAddr s.sp) v] ∧ Reports s t n :=
  ⟨State.push_sp s v, .of_reads, State.push_pc s v, State.push_memKeptBut s v, State.push_peek_same v, State.push_bus s v,
    by simp [Reports]⟩

/-- Settles O35: each instruction is one push, and the byte PHP pushes is the copy of P with B = 1. -/
theorem pushesStoreOneByte : Obligations.PushesStoreOneByte := by
  intro s
  constructor
  · exact ⟨rfl, _, exec_pha s, push_finish s s.a 3⟩
  · obtain ⟨-, -, bit5, bit4, -⟩ := pushedP_bits s true
    obtain ⟨sp, frame, pc, stores⟩ := push_finish s (pushedP s.p true) 3
    exact ⟨rfl, _, _, exec_php s, sp, frame, pc, flagOf_pushedP s.p true, bit4, bit5, stores⟩

/-! ## Pulls -/

/-- What an instruction that pulls one byte, writes registers and flags alone up to `u`, and ends does to memory and the bus. -/
theorem pull_finish_reads {s u : State} (n : Nat) (mem : u.mem = s.mem := by simp) (pc : u.pc = s.pc := by simp)
    (bus : u.bus = s.pull.2.bus := by simp) (result : u.result = s.result := by simp) :
    let t := u.finish n
    MemKept s t ∧ t.pc = s.pc ∧
      (s.plain (stackAddr (s.sp + 1#8)) = true → s.pull.1 = s.mem.peek (stackAddr (s.sp + 1#8)).toNat) ∧
      t.bus = s.bus ++ [.read (stackAddr (s.sp + 1#8)) s.pull.1] ∧ Reports s t n :=
  ⟨.of_eq mem, pc, State.pull_of_plain, bus.trans (State.pull_bus s), by rw [Reports, ← result, State.finish_result]⟩

/-- Settles O36: each instruction is one pull, whose byte PLA loads into A and PLP normalises into P. -/
theorem pullsLoadOneByte : Obligations.PullsLoadOneByte := by
  intro s
  constructor
  · have loaded : Frame s { s.pull.2 with a := s.pull.1 } [.a, .sp] [] := .of_reads
    obtain ⟨nz, frame⟩ := loaded.setNZ_finish s.pull.1 4
    exact ⟨rfl, _, s.pull.1, exec_pla s, State.pull_sp s, rfl, nz, frame, pull_finish_reads 4⟩
  · exact ⟨rfl, _, s.pull.1, exec_plp s, State.pullP_sp s, flagOf_normP s.pull.1,
      ⟨normP_bit5 s.pull.1, normP_bit4 s.pull.1⟩, .of_reads (by simp) (by simp) (by simp) (by simp),
      by simp [RestKept], pull_finish_reads 4⟩

/-! ## A pull after a push -/

/-- The end of a tick does not change what the next one pulls. -/
theorem State.pull_finish_value (s : State) (n : Nat) : (s.finish n).pull.1 = s.pull.1 :=
  State.memRead_value_congr (s := { s.finish n with sp := s.sp + 1#8 }) (t := { s with sp := s.sp + 1#8 })
    rfl rfl rfl (stackAddr (s.sp + 1#8))

/-- An instruction that pulls after one that has pushed gets the byte pushed and SP as it was (20_memory.md R92, R93). -/
theorem State.pull_push_finish {s : State} (v : Byte) (n : Nat) (h : s.mem.wf = true) (hp : s.plain (stackAddr s.sp) = true) :
    ((s.push v).finish n).pull.1 = v ∧ ((s.push v).finish n).pull.2.sp = s.sp :=
  ⟨(State.pull_finish_value _ n).trans (State.pull_push_value v h hp), by simp⟩

/-- Settles O29: the second instruction pulls what the first has pushed, and legal P comes back from its pushed copy. -/
theorem pushThenPullRestores : Obligations.PushThenPullRestores := by
  intro s ⟨⟨bit5, bit4⟩, wf⟩ plain
  constructor
  · obtain ⟨value, sp⟩ := State.pull_push_finish (pushedP s.p true) 3 wf plain
    refine ⟨_, _, exec_php s, exec_plp _, ?_, sp⟩
    rw [State.finish_p, State.pullP_p, value, normP_pushedP true bit5 bit4]
  · obtain ⟨value, sp⟩ := State.pull_push_finish s.a 3 wf plain
    exact ⟨_, _, exec_pha s, exec_pla _, value, sp⟩

end Sys2Proof.Machine

/-! # The arithmetic family: INC to DEY, and SBC after ADC on packed decimal digits (44_arithmetic.md R227, R231 to R236)

An increment or decrement is the ALU's of R189, in a register or in one byte of memory, and ends with SetNZ. What a
read-modify-write instruction does to memory and the bus is said once, whatever it writes besides. -/

namespace Sys2Proof.Machine

/-! ## Increments and decrements -/

theorem aluInc_toNat (v : Byte) : (aluInc v).toNat = (v.toNat + 1) % 256 := BitVec.toNat_add v 1#8

theorem aluDec_toNat (v : Byte) : (aluDec v).toNat = (v.toNat + 255) % 256 := by
  rw [aluDec, BitVec.toNat_sub, Nat.add_comm]
  rfl

/-- Settles O44: each instruction writes one register by the ALU and ends as a transfer does. -/
theorem incAndDecRegisters : Obligations.IncAndDecRegisters := fun s =>
  ⟨⟨rfl, _, exec_inx s, aluInc_toNat s.x, transfer_finish .of_reads .of_finish⟩,
    ⟨rfl, _, exec_iny s, aluInc_toNat s.y, transfer_finish .of_reads .of_finish⟩,
    ⟨rfl, _, exec_dex s, aluDec_toNat s.x, transfer_finish .of_reads .of_finish⟩,
    ⟨rfl, _, exec_dey s, aluDec_toNat s.y, transfer_finish .of_reads .of_finish⟩⟩

/-! ## Read-modify-write on memory -/

/-- An instruction that ends after its read-modify-write, having written registers and flags alone, modifies one byte. -/
theorem ModifiesByte.of_finish {i : Instr} {m : RmwMem} {f : Byte → Byte} {s u : State}
    (mem : u.mem = (m.modify s f).2.mem := by simp) (bus : u.bus = (m.modify s f).2.bus := by simp)
    (pc : u.pc = s.pc := by simp) (result : u.result = s.result := by simp) :
    ModifiesByte i m f s (u.finish (i.cycles false 0)) (m.modify s f).1 := by
  refine ⟨fun k hk => ?_, fun wf plain => ?_, m.modify_value f, bus.trans (m.modify_bus s f), pc, ?_⟩
  · rw [State.finish_mem, mem]
    exact m.modify_peek_ne s f (hk _ (List.mem_singleton_self _))
  · rw [State.finish_mem, mem]
    exact m.modify_peek_same f wf plain
  · rw [Reports, ← result, State.finish_result]

/-- A read-modify-write that ends with `SetNZ` of the byte it has written (44_arithmetic.md R231, R232). -/
theorem modify_setNZ_finish {i : Instr} (m : RmwMem) (f : Byte → Byte) (s : State) :
    let v := (m.modify s f).1
    let t := ((m.modify s f).2.setNZ (f v)).finish (i.cycles false 0)
    ModifiesByte i m f s t v ∧ NZ t (f v) ∧ Frame s t [] [.n, .z] :=
  have modified : Frame s (m.modify s f).2 [] [] := .of_reads
  ⟨.of_finish, modified.setNZ_finish _ _⟩

/-- Settles O43: each instruction is a read-modify-write by its ALU function. -/
theorem incAndDecMemory : Obligations.IncAndDecMemory := fun m s =>
  ⟨⟨rfl, _, _, exec_inc m s, modify_setNZ_finish m aluInc s⟩,
    ⟨rfl, _, _, exec_dec m s, modify_setNZ_finish m aluDec s⟩⟩

/-! ## SBC after ADC -/

/-- Packed digits are determined by the number they stand for. -/
theorem bcdValue_injective {a b : Byte} (ha : validBcd a) (hb : validBcd b) (h : bcdValue a = bcdValue b) : a = b := by
  obtain ⟨loA, -⟩ := ha
  obtain ⟨loB, -⟩ := hb
  rw [bcdValue, bcdValue] at h
  apply BitVec.eq_of_toNat_eq
  rw [toNat_eq_nibbles a, toNat_eq_nibbles b]
  omega

/-- Decimal SUB takes away what decimal ADD has added, when its borrow is the carry that went into the sum: the two leave the
value of `a` modulo 100. -/
theorem decimalSub_decimalAdd {a b : Byte} (c : Bool) (ha : validBcd a) (hb : validBcd b) :
    decimalSub (decimalAdd a b c).1 b (!c) = a := by
  obtain ⟨sumValid, sum⟩ := decimalAdd_value c ha hb
  obtain ⟨valid, borrow, difference⟩ := decimalSub_value (!c) sumValid hb
  rw [Bool.not_not] at difference
  refine bcdValue_injective valid ha ?_
  have := bcdValue_le valid
  have := bcdValue_le ha
  omega

/-- ADC and SBC do not leave their mode. -/
theorem State.accumulated_d (s : State) (i : Instr) (m : Src) (f : AluResult) : (s.accumulated i m f).flag .d = s.flag .d := by
  obtain ⟨⟨-, ⟨kept, -⟩, -⟩, -⟩ := s.accumulated_frame_reads i m f
  exact kept .d (by simp)

/-- ADC in decimal mode: its result, and that it stays in decimal mode (44_arithmetic.md R226). -/
theorem exec_adc_decimal (m : Src) {s : State} (decimal : s.flag .d = true) :
    ∃ t, exec (.adc m) s = .next t ∧ t.a = (decimalAdd s.a (m.load s).1 (s.flag .c)).1 ∧ t.flag .d = true := by
  have executed := exec_adc_accumulated m s
  rw [decimal, aluAdc_decimal] at executed
  exact ⟨_, executed, State.accumulated_a .., (State.accumulated_d ..).trans decimal⟩

/-- The result of SBC in decimal mode (44_arithmetic.md R227). -/
theorem exec_sbc_decimal (m : Src) {s : State} (decimal : s.flag .d = true) :
    ∃ t, exec (.sbc m) s = .next t ∧ t.a = decimalSub s.a (m.load s).1 (s.flag .c) := by
  have executed := exec_sbc_accumulated m s
  rw [decimal, aluSbc_decimal] at executed
  exact ⟨_, executed, State.accumulated_a ..⟩

/-- Settles O41: both instructions are in decimal mode, where SUB undoes ADD when it borrows what ADD carried in. -/
theorem sbcUndoesAdcOnBcd : Obligations.SbcUndoesAdcOnBcd := by
  intro v s decimal validA validV
  obtain ⟨t, adc, sum, stillDecimal⟩ := exec_adc_decimal (.imm v) decimal
  obtain ⟨u, sbc, difference⟩ := exec_sbc_decimal (.imm v) (s := t.setFlag .c (!s.flag .c)) (by simpa using stillDecimal)
  refine ⟨t, u, adc, sbc, ?_⟩
  rw [difference, State.setFlag_flag, if_pos rfl, State.setFlag_a, sum]
  exact decimalSub_decimalAdd (s.flag .c) validA validV

end Sys2Proof.Machine

/-! # The logic and shift family: AND, ORA, EOR, and the shifts and rotates of memory (45_logic_shift.md R241 to R248)

An instruction that combines A with its operand is a load, a write of A and SetNZ. A shift or rotate of memory is a
read-modify-write by a function that gives the result and the bit shifted out, and writes N, Z and C. -/

namespace Sys2Proof.Machine

/-- The end of an instruction that has loaded its operand, and writes `v` to A and sets N and Z by it. -/
theorem setA_setNZ_finish_of_loaded {i : Instr} (m : Src) (s : State) (v : Byte) :
    let t := (State.setNZ { (m.load s).2.2 with a := v } v).finish (i.cycles (m.load s).2.1 0)
    t.a = v ∧ NZ t t.a ∧ Frame s t [.a] [.n, .z] ∧ ReadsOperand i m s t :=
  ⟨rfl, setNZ_finish_of_loaded v (.of_reads (by simp) (by simp) (by simp) (by simp))⟩

/-- Settles O45: each instruction is a load, and A takes the combination of its old value and the operand. -/
theorem logicCombinesWithA : Obligations.LogicCombinesWithA := fun m s =>
  ⟨⟨rfl, _, exec_and m s, setA_setNZ_finish_of_loaded m s _⟩,
    ⟨rfl, _, exec_ora m s, setA_setNZ_finish_of_loaded m s _⟩,
    ⟨rfl, _, exec_eor m s, setA_setNZ_finish_of_loaded m s _⟩⟩

/-- The opcode of a shift of memory is listed after that of the accumulator. -/
theorem opcodeAt_shiftModes_mem (m : RmwMem) (acc : Byte) (ops : List Byte) :
    opcodeAt shiftModes (acc :: ops) m.mode = opcodeAt [.zp, .zpx, .abs, .absx] ops m.mode := by
  cases m <;> rfl

theorem shift_mem_eq (i : Instr) (m : RmwMem) (f : Byte → Byte × Bool) (s : State) : shift i (.mem m) f s =
    let q := m.modify s fun v => (f v).1
    .next (((q.2.setFlag .c (f q.1).2).setNZ (f q.1).1).finish (i.cycles false 0)) := rfl

/-- A shift of memory by `f`, whose result is the number `g` of the byte read: one read and one write of the effective address, C
the bit shifted out, N and Z from the result (40_addressing.md R170). -/
theorem shift_mem (i : Instr) (m : RmwMem) (s : State) {f : Byte → Byte × Bool} {g : Byte → Nat}
    (result : ∀ v, (f v).1.toNat = g v) :
    ∃ t v r, shift i (.mem m) f s = .next t ∧ ModifiesByte i m (fun _ => r) s t v ∧ r.toNat = g v ∧ t.flag .c = (f v).2 ∧
      NZ t r ∧ Frame s t [] [.n, .z, .c] := by
  have flags : FlagsKept s (m.modify s fun v => (f v).1).2 [.n, .z, .c] := .of_eq (by simp) _
  refine ⟨_, _, _, shift_mem_eq i m f s, .of_finish (f := fun v => (f v).1), result _, by simp,
    .of_flags (by simp) (by simp), ?_, ?_, by simp [RestKept]⟩
  · exact .of_reads (by simp) (by simp) (by simp) (by simp)
  · exact ((flags.setFlag (by simp) _).setNZ (by simp) (by simp) _).finish _

/-- Settles O48: each instruction is a shift of memory by its function, whose result is a number. -/
theorem shiftsOfMemory : Obligations.ShiftsOfMemory := fun m s =>
  ⟨⟨opcodeAt_shiftModes_mem m _ _, shift_mem (.asl (.mem m)) m s aluAsl_toNat⟩,
    ⟨opcodeAt_shiftModes_mem m _ _, shift_mem (.lsr (.mem m)) m s aluLsr_toNat⟩,
    ⟨opcodeAt_shiftModes_mem m _ _, shift_mem (.rol (.mem m)) m s (aluRol_toNat (s.flag .c))⟩,
    ⟨opcodeAt_shiftModes_mem m _ _, shift_mem (.ror (.mem m)) m s (aluRor_toNat (s.flag .c))⟩⟩

end Sys2Proof.Machine

/-! # The control family: branches, JMP, JSR, RTS, RTI and BRK (46_control.md R256 to R269)

A branch ends in one of two states, taken or not, whatever its flag. The instructions that use the stack are pushes and pulls in a
row, whose accesses and bytes are said once, and what JSR does before an RTS, or in a whole tick, follows from what it does. -/

namespace Sys2Proof.Machine

/-- The end of an instruction reports its cycles when no operation before it has touched the result. -/
theorem Reports.of_finish {s u : State} {n : Nat} (result : u.result = s.result := by simp) : Reports s (u.finish n) n := by
  rw [Reports, ← result, State.finish_result]

/-- Nothing of P is outside the flags and bits 4 and 5. -/
theorem FlagsKept.p_eq {s t : State} (h : FlagsKept s t []) : t.p = s.p := by
  obtain ⟨flags, bit4, bit5⟩ := h
  have bit (f : Flag) : t.p.getLsbD f.bit = s.p.getLsbD f.bit := flags f List.not_mem_nil
  apply BitVec.eq_of_getLsbD_eq
  intro i hi
  match i, hi with
  | 0, _ => exact bit .c
  | 1, _ => exact bit .z
  | 2, _ => exact bit .i
  | 3, _ => exact bit .d
  | 4, _ => exact bit4
  | 5, _ => exact bit5
  | 6, _ => exact bit .v
  | 7, _ => exact bit .n

/-! ## Branches -/

/-- A taken branch costs one cycle more to another page (46_control.md R256). -/
theorem taken_cycles (a b : Word) : 3 + (pageCross a b).toNat = if hi8 b = hi8 a then 3 else 4 := by
  rw [pageCross_eq]
  by_cases same : hi8 b = hi8 a
  · simp [same]
  · simp [same, Ne.symm same]

/-- What a branch does under its condition `c`, whichever flag that reads (46_control.md R256). -/
theorem branch_follows {i : Instr} {c : Bool} {o : Byte} {s : State}
    (executed : exec i s = .next (if c = true then
      State.finish { s with pc := branchTarget s.pc o } (3 + (pageCross s.pc (branchTarget s.pc o)).toNat) else s.finish 2)) :
    ∃ t, exec i s = .next t ∧ Frame s t [] [] ∧ t.mem = s.mem ∧ t.bus = s.bus ∧
      (c = true → (t.pc.toNat : Int) = ((s.pc.toNat : Int) + o.toInt) % 65536 ∧
        Reports s t (if hi8 t.pc = hi8 s.pc then 3 else 4)) ∧
      (c = false → t.pc = s.pc ∧ Reports s t 2) := by
  cases c with
  | true =>
    rw [taken_cycles] at executed
    exact ⟨_, executed, .of_reads, rfl, rfl, fun _ => ⟨branchTarget_toNat s.pc o, .of_finish⟩, nofun⟩
  | false => exact ⟨_, executed, .of_reads, rfl, rfl, nofun, fun _ => ⟨rfl, .of_finish⟩⟩

/-- Settles O49: each instruction is a branch under its own condition. -/
theorem branchesFollowTheirFlag : Obligations.BranchesFollowTheirFlag := by
  intro o s
  simp only [List.forall_mem_cons, List.not_mem_nil, IsEmpty.forall_iff, implies_true, and_true]
  exact ⟨⟨rfl, branch_follows (exec_bcc o s)⟩, ⟨rfl, branch_follows (exec_bcs o s)⟩, ⟨rfl, branch_follows (exec_beq o s)⟩,
    ⟨rfl, branch_follows (exec_bne o s)⟩, ⟨rfl, branch_follows (exec_bmi o s)⟩, ⟨rfl, branch_follows (exec_bpl o s)⟩,
    ⟨rfl, branch_follows (exec_bvc o s)⟩, ⟨rfl, branch_follows (exec_bvs o s)⟩⟩

/-! ## JMP -/

/-- The pointer of JMP is two reads in one page, low byte first (40_addressing.md R161). -/
theorem resolve_ind_reads (w : Word) (s : State) : let high := wordOf (lo8 w + 1#8) (hi8 w)
    ∃ lo hi, ((JmpOperand.ind w).resolve s).1 = wordOf lo hi ∧
      ((JmpOperand.ind w).resolve s).2.bus = s.bus ++ [.read w lo, .read high hi] ∧
      (s.plain w = true → lo = s.mem.peek w.toNat) ∧ (s.plain high = true → hi = s.mem.peek high.toNat) := by
  rw [JmpOperand.resolve, jmpHighAddr_eq]
  refine ⟨_, _, rfl, by simp, State.memRead_value, fun plain => ?_⟩
  rw [State.memRead_value (by rwa [State.memRead_plain]), State.memRead_mem]

/-- Settles O50: JMP writes PC alone, after no access or the reads of its pointer. -/
theorem jmpGoesToItsTarget : Obligations.JmpGoesToItsTarget := by
  intro w s
  constructor
  · exact ⟨rfl, _, exec_jmp (.abs w) s, rfl, .of_reads, rfl, rfl, .of_finish⟩
  · obtain ⟨lo, hi, target, bus, low, high⟩ := resolve_ind_reads w s
    exact ⟨rfl, _, lo, hi, exec_jmp (.ind w) s, target, .of_reads, by simp, bus, low, high, .of_finish⟩

/-! ## JSR -/

/-- Settles O51: two pushes of PC, and a read of the byte at PC after them. -/
theorem jsrPushesThenReadsItsHighByte : Obligations.JsrPushesThenReadsItsHighByte := by
  intro target s
  let u := (s.push (hi8 s.pc)).push (lo8 s.pc)
  have sp : u.sp = s.sp - 2#8 := by
    simp only [u, State.push_sp]
    bv_omega
  refine ⟨rfl, _, (u.memRead s.pc).1, exec_jsr target s, rfl, by simpa [u] using sp, .of_reads, fun k hk => ?_,
    fun wf plain => ?_, fun wf plain => ?_, by simp [u], fun plain => ?_, .of_finish⟩
  · simpa using State.push_push_peek_ne s _ _ (hk _ (by simp)) (hk _ (by simp))
  · simpa using State.push_push_peek_first _ _ wf plain
  · simpa using State.push_push_peek_second _ _ wf plain
  · rw [State.memRead_value (by simpa [u] using plain)]
    simp [u]

/-- The bytes of a JSR decode to it. -/
theorem decodeOp_jsr (target : Word) : decodeOp 0x20#8 (lo8 target) (hi8 target) = .jsr target :=
  congrArg Instr.jsr (wordOf_lo8_hi8 target)

/-- In plain memory the fetch of a JSR leaves PC at its last byte (46_control.md R266). -/
theorem State.fetchInstr_jsr {s : State} {target : Word} (plain : ∀ k, s.plain k = true)
    (opcode : s.mem.peek s.pc.toNat = 0x20#8) (low : s.mem.peek (s.pc + 1#16).toNat = lo8 target)
    (high : s.mem.peek (s.pc + 2#16).toNat = hi8 target) :
    s.fetchInstr.1 = .jsr target ∧ s.fetchInstr.2.pc = s.pc + 2#16 := by
  rw [State.fetchInstr_of_plain opcode.symm low.symm high.symm fun _ _ => plain _, decodeOp_jsr]
  exact ⟨rfl, rfl⟩

/-- Settles O52: the high byte is the one in memory before the tick, as the pushes store elsewhere. -/
theorem jsrTickReachesItsTarget : Obligations.JsrTickReachesItsTarget := by
  intro s target allowed quiet oracle opcode low high notFirst notSecond
  have plain (k : Word) : s.plain k = true := State.plain_of_oracle_nil oracle k
  obtain ⟨fetched, lastByte⟩ := State.fetchInstr_jsr (s := s.beginTick) plain opcode low high
  obtain ⟨-, t, hh, executed, pc, sp, -, kept, -, -, -, pushed, -⟩ :=
    jsrPushesThenReadsItsHighByte target s.beginTick.fetchInstr.2
  rw [lastByte, State.fetchInstr_plain] at pushed
  rw [State.fetchInstr_sp] at kept sp
  have hh_eq : hh = hi8 target := by
    rw [pushed (plain _), ← high]
    refine (kept _ fun w hw => ?_).trans (by rw [State.fetchInstr_mem]; rfl)
    rcases List.mem_pair.mp hw with rfl | rfl
    · exact mt BitVec.eq_of_toNat_eq notFirst
    · exact mt BitVec.eq_of_toNat_eq notSecond
  exact ⟨t, by rw [step_of_poll_none allowed quiet, fetched, executed], by rw [pc, hh_eq, wordOf_lo8_hi8], sp⟩

/-! ## RTS and RTI -/

theorem State.pull_pull_sp (s : State) : s.pull.2.pull.2.sp = s.sp + 2#8 := by
  rw [State.pull_sp, State.pull_sp]
  exact BitVec.add_assoc s.sp 1#8 1#8

/-- Two pulls read the next two stack addresses in order (20_memory.md R93). -/
theorem State.pull_pull_reads (s : State) :
    s.pull.2.pull.2.bus = s.bus ++ [.read (stackAddr (s.sp + 1#8)) s.pull.1, .read (stackAddr (s.sp + 2#8)) s.pull.2.pull.1] ∧
      (s.plain (stackAddr (s.sp + 1#8)) = true → s.pull.1 = s.mem.peek (stackAddr (s.sp + 1#8)).toNat) ∧
      (s.plain (stackAddr (s.sp + 2#8)) = true → s.pull.2.pull.1 = s.mem.peek (stackAddr (s.sp + 2#8)).toNat) := by
  have second : s.pull.2.sp + 1#8 = s.sp + 2#8 := (State.pull_sp _).symm.trans s.pull_pull_sp
  refine ⟨by simp [← second], State.pull_of_plain, fun plain => ?_⟩
  rw [State.pull_of_plain (by rwa [second, State.pull_plain]), second, State.pull_mem]

/-- Settles O53: two pulls, and PC from their word. -/
theorem rtsPullsPcPlusOne : Obligations.RtsPullsPcPlusOne := by
  intro s
  obtain ⟨bus, low, high⟩ := s.pull_pull_reads
  exact ⟨rfl, _, _, _, exec_rts s, rfl, s.pull_pull_sp, .of_reads, by simp, bus, low, high, .of_finish⟩

/-- Settles O54: a pull normalised into P, and two pulls of PC. -/
theorem rtiRestoresPAndPc : Obligations.RtiRestoresPAndPc := by
  intro s
  have second : s.pullP.sp + 1#8 = s.sp + 2#8 := by
    rw [State.pullP_sp]
    exact BitVec.add_assoc s.sp 1#8 1#8
  have third : s.pullP.sp + 2#8 = s.sp + 3#8 := by
    rw [State.pullP_sp]
    exact BitVec.add_assoc s.sp 1#8 2#8
  obtain ⟨bus, low, high⟩ := s.pullP.pull_pull_reads
  simp only [second, third, State.pullP_plain, State.pullP_mem, State.pullP_bus, List.append_assoc, List.cons_append,
    List.nil_append] at bus low high
  exact ⟨rfl, _, s.pull.1, _, _, exec_rti s, fun f => by simp [State.flag], by simp [State.pLegal], rfl,
    s.pullP.pull_pull_sp.trans third, .of_reads (by simp) (by simp) (by simp) (by simp), by simp [RestKept], by simp, bus,
    State.pull_of_plain, low, high, .of_finish⟩

/-! ## BRK -/

theorem Entered.finish {s t : State} {ret : Word} {b : Bool} {vector : Word} (h : Entered s t ret b vector) (n : Nat) :
    Entered s (t.finish n) ret b vector :=
  h.congr rfl rfl rfl rfl rfl rfl rfl rfl rfl rfl rfl rfl rfl rfl rfl rfl

/-- An entry saves the PC it is told to, which need not be that of `s`. -/
theorem Entered.of_setPc {s t : State} {ret pc : Word} {b : Bool} {vector : Word}
    (h : Entered { s with pc := pc } t ret b vector) : Entered s t ret b vector :=
  h.congr rfl rfl rfl rfl rfl rfl rfl rfl rfl rfl rfl rfl rfl rfl rfl rfl

/-- Settles O55: the shared entry, from PC past the signature. -/
theorem brkEntersThroughItsVector : Obligations.BrkEntersThroughItsVector := by
  intro signature s
  have entered := State.interruptEntry_entered { s with pc := s.pc + 1#16 } true 0xFFFE#16
  exact ⟨rfl, _, exec_brk signature s, entered.of_setPc.finish 7, by simp [RestKept], .of_finish⟩

/-! ## RTS after JSR -/

/-- Settles O30: RTS pulls the two bytes that JSR has pushed, which are those of PC. -/
theorem callThenReturn : Obligations.CallThenReturn := by
  intro s target wf plainHigh plainLow
  obtain ⟨-, t, -, jsr, -, sp, ⟨regs, flags, rest⟩, -, high, low, -⟩ := jsrPushesThenReadsItsHighByte target s
  obtain ⟨-, u, lo, hi, rts, pc, sp', ⟨regs', flags', -⟩, -, -, lo_eq, hi_eq, -⟩ := rtsPullsPcPlusOne t
  obtain ⟨-, -, -, -, -, oracle⟩ := rest
  have plain (k : Word) : t.plain k = s.plain k := by rw [State.plain_def, oracle, State.plain_def]
  have first : t.sp + 1#8 = s.sp - 1#8 := by
    rw [sp]
    bv_omega
  have second : t.sp + 2#8 = s.sp := by rw [sp, BitVec.sub_add_cancel]
  rw [first, plain] at lo_eq
  rw [second, plain] at hi_eq
  have sp_eq : u.sp = s.sp := sp'.trans second
  refine ⟨t, u, jsr, rts, ?_, sp_eq, flags'.p_eq.trans flags.p_eq, fun r _ => ?_⟩
  · rw [pc, lo_eq plainLow, hi_eq plainHigh, low wf plainLow, high wf plainHigh, wordOf_lo8_hi8]
  · rcases eq_or_ne r .sp with rfl | other
    · exact sp_eq
    · have unwritten : r ∉ [Reg.sp] := mt List.mem_singleton.mp other
      exact (regs' r unwritten).trans (regs r unwritten)

end Sys2Proof.Machine

/-! # The flag and NOP family: CLC to CLV, NOP, the illegal NOPs and the unrecognized opcodes (47_flags_nop.md R276 to R290)

The flag instructions are one, up to the flag and the bit it gets. A NOP is only the end of its tick, and what differs between the
NOPs is the bytes the fetch has passed and the cycles. An unrecognized opcode ends its tick by itself, and may take PC back. -/

namespace Sys2Proof.Machine

/-! ## Flag instructions -/

/-- What an instruction does that gives the flag `f` the value `b` and ends. -/
theorem setFlag_finish_of_exec {i : Instr} {s : State} {f : Flag} {b : Bool}
    (executed : exec i s = .next ((s.setFlag f b).finish 2)) :
    ∃ t, exec i s = .next t ∧ t.flag f = b ∧ Frame s t [] [f] ∧ Internal s t 2 := by
  have flags : FlagsKept s (s.setFlag f b) [f] := (FlagsKept.of_eq rfl [f]).setFlag (List.mem_singleton_self f) b
  have written : (s.setFlag f b).flag f = b := by rw [State.setFlag_flag, if_pos rfl]
  exact ⟨_, executed, written, ⟨.of_reads (by simp) (by simp) (by simp) (by simp), flags.finish 2, by simp [RestKept]⟩,
    .of_finish⟩

/-- Settles O56: each instruction gives its own flag its own value. -/
theorem flagInstructionsWriteOneFlag : Obligations.FlagInstructionsWriteOneFlag := by
  intro s
  simp only [List.forall_mem_cons, List.not_mem_nil, IsEmpty.forall_iff, implies_true, and_true]
  exact ⟨⟨rfl, setFlag_finish_of_exec (exec_clc s)⟩, ⟨rfl, setFlag_finish_of_exec (exec_sec s)⟩,
    ⟨rfl, setFlag_finish_of_exec (exec_cli s)⟩, ⟨rfl, setFlag_finish_of_exec (exec_sei s)⟩,
    ⟨rfl, setFlag_finish_of_exec (exec_cld s)⟩, ⟨rfl, setFlag_finish_of_exec (exec_sed s)⟩,
    ⟨rfl, setFlag_finish_of_exec (exec_clv s)⟩⟩

/-! ## NOPs -/

/-- The discarded address of Absolute,X costs a cycle when X carries out of its low byte (47_flags_nop.md R289). -/
theorem nopAbsx_cycles (op : Byte) (w : Word) (x : Byte) : (Instr.nopAbsx op w).cycles (pageCross w (w + zext16 x)) 0 =
    if 256 ≤ w.toNat % 256 + x.toNat then 5 else 4 := by
  rw [pageCross_index]
  by_cases carries : 256 ≤ w.toNat % 256 + x.toNat
  · rw [decide_eq_true carries, if_pos carries]
    rfl
  · rw [decide_eq_false carries, if_neg carries]
    rfl

/-- Settles O57: each NOP ends its tick in the state the fetch has left. -/
theorem nopsOnlyAdvance : Obligations.NopsOnlyAdvance := fun op v w s =>
  ⟨⟨rfl, _, exec_nop s, .of_reads, .of_finish⟩,
    ⟨rfl, _, exec_nopImp op s, .of_reads, .of_finish⟩,
    ⟨rfl, _, exec_nopImm op v s, .of_reads, .of_finish⟩,
    ⟨rfl, _, exec_nopZp op v s, .of_reads, .of_finish⟩,
    ⟨rfl, _, exec_nopZpx op v s, .of_reads, .of_finish⟩,
    ⟨rfl, _, exec_nopAbs op w s, .of_reads, .of_finish⟩,
    ⟨rfl, _, exec_nopAbsx op w s, .of_reads, nopAbsx_cycles op w s.x ▸ .of_finish⟩⟩

/-! ## Unrecognized opcodes -/

/-- Settles O58: PC and the result are all that is written. -/
theorem unrecognizedOpcodesAreReported : Obligations.UnrecognizedOpcodesAreReported := fun op s =>
  ⟨rfl, _, exec_unrecognized op s, .of_reads, rfl, rfl, rfl, rfl⟩

end Sys2Proof.Machine

/-! # The exception and reset family: the poll, the NMI, IRQ and RESET sequences, RTI after an entry, host operations (60_exceptions.md R297 to R323, 70_reset_and_hazards.md R331 to R339)

A tick that polls a source runs its sequence. NMI and IRQ are the shared entry, up to the vector and the latch it clears, and RESET is
two reads and four draws. An instruction that changes I changes the mask of the IRQ latch for the next poll. -/

namespace Sys2Proof.Machine

/-! ## The poll -/

/-- The poll as its four cases, of which one holds in every state (60_exceptions.md R301). -/
theorem State.poll_cases (s : State) :
    (s.resetPending = true ∧ s.poll = some .reset) ∨
    (s.resetPending = false ∧ s.nmiPending = true ∧ s.poll = some .nmi) ∨
    (s.resetPending = false ∧ s.nmiPending = false ∧ s.irqPending = true ∧ s.flag .i = false ∧ s.poll = some .irq) ∨
    (s.resetPending = false ∧ s.nmiPending = false ∧ (s.irqPending = false ∨ s.flag .i = true) ∧ s.poll = none) := by
  unfold State.poll
  split
  next reset => exact .inl ⟨reset, rfl⟩
  next noReset =>
    rw [Bool.not_eq_true] at noReset
    split
    next nmi => exact .inr (.inl ⟨noReset, nmi, rfl⟩)
    next noNmi =>
      rw [Bool.not_eq_true] at noNmi
      split
      next irq =>
        obtain ⟨pending, unmasked⟩ := Bool.and_eq_true_iff.mp irq
        exact .inr (.inr (.inl ⟨noReset, noNmi, pending, Bool.eq_false_of_not_eq_true' unmasked, rfl⟩))
      next noIrq =>
        rw [Bool.not_eq_true, Bool.and_eq_false_iff, Bool.not_eq_false'] at noIrq
        exact .inr (.inr (.inr ⟨noReset, noNmi, noIrq, rfl⟩))

theorem State.poll_eq_reset_iff (s : State) : s.poll = some .reset ↔ s.resetPending = true := by
  obtain ⟨_, _⟩ | ⟨_, -, _⟩ | ⟨_, -, -, -, _⟩ | ⟨_, -, -, _⟩ := s.poll_cases <;> simp [*]

theorem State.poll_eq_nmi_iff (s : State) : s.poll = some .nmi ↔ s.resetPending = false ∧ s.nmiPending = true := by
  obtain ⟨_, _⟩ | ⟨_, _, _⟩ | ⟨_, _, -, -, _⟩ | ⟨_, _, -, _⟩ := s.poll_cases <;> simp [*]

theorem State.poll_eq_irq_iff (s : State) : s.poll = some .irq ↔
    s.resetPending = false ∧ s.nmiPending = false ∧ s.irqPending = true ∧ s.flag .i = false := by
  obtain ⟨_, _⟩ | ⟨_, _, _⟩ | ⟨_, _, _, _, _⟩ | ⟨_, _, _ | _, _⟩ := s.poll_cases <;> simp [*]

theorem State.poll_eq_none_iff (s : State) : s.poll = none ↔
    s.resetPending = false ∧ s.nmiPending = false ∧ (s.irqPending = false ∨ s.flag .i = true) := by
  obtain ⟨_, _⟩ | ⟨_, _, _⟩ | ⟨_, _, _, _, _⟩ | ⟨_, _, _, _⟩ := s.poll_cases <;> simp [*]

/-- A tick with a source polled runs its sequence (30_encoding.md R120). -/
theorem step_of_poll_some {s : State} {e : Source} (allowed : s.tickAllowed) (polled : s.poll = some e) :
    step s = .next (s.beginTick.service e) := by
  have notRefused : ¬((!s.started && !s.resetPending) = true) := by
    simpa [State.tickAllowed, or_iff_not_imp_left] using allowed
  rw [step, if_neg notRefused, polled]

/-- Settles O9: past the refusal a tick is a sequence or an instruction, and every instruction completes. -/
theorem onlyATickBeforeResetIsRefused : Obligations.OnlyATickBeforeResetIsRefused := by
  intro s
  refine ⟨fun ⟨notStarted, noReset⟩ => by simp [step, notStarted, noReset], fun allowed => ?_⟩
  cases polled : s.poll with
  | some e => exact ⟨_, step_of_poll_some allowed polled⟩
  | none =>
    obtain ⟨t, executed, -⟩ := everyInstructionCompletes s.beginTick.fetchInstr.1 s.beginTick.fetchInstr.2
    exact ⟨t, (step_of_poll_none allowed polled).trans executed⟩

/-! ## NMI and IRQ -/

/-- The end of the NMI and of the IRQ sequence after the shared entry: the two latches, and the result of the tick. -/
def State.endEntry (u : State) (nmi irq : Bool) : State :=
  State.finishSequence { u with nmiPending := nmi, irqPending := irq }

theorem State.service_nmi (s : State) :
    s.service .nmi = (s.interruptEntry false 0xFFFA#16).endEntry false s.irqPending := by
  rw [← State.interruptEntry_irqPending s false 0xFFFA#16]
  rfl

theorem State.service_irq (s : State) : s.service .irq =
    (s.interruptEntry false 0xFFFE#16).endEntry s.nmiPending (s.irqPending && !s.params.irqClearOnService) := by
  rw [← State.interruptEntry_irqPending s false 0xFFFE#16, ← State.interruptEntry_nmiPending s false 0xFFFE#16,
    ← State.interruptEntry_params s false 0xFFFE#16, State.service, State.irqSequence]
  split
  next clear =>
    rw [clear, Bool.not_true, Bool.and_false]
    rfl
  next keep =>
    rw [eq_false_of_ne_true keep, Bool.not_false, Bool.and_true]
    rfl

theorem Entered.endEntry {s u : State} {ret : Word} {b : Bool} {vector : Word} (h : Entered s u ret b vector)
    (nmi irq : Bool) : Entered s (u.endEntry nmi irq) ret b vector :=
  h.congr rfl rfl rfl rfl rfl rfl rfl rfl rfl rfl rfl rfl rfl rfl rfl rfl

/-- What NMI and IRQ share (60_exceptions.md R303 to R305, R308). -/
theorem State.interruptEntry_endEntry (s : State) (vector : Word) (nmi irq : Bool) :
    let t := (s.interruptEntry false vector).endEntry nmi irq
    Entered s t s.pc false vector ∧ t.nmiPending = nmi ∧ t.irqPending = irq ∧ t.resetPending = s.resetPending ∧
      t.started = s.started ∧ t.params = s.params ∧ t.oracle = s.oracle ∧
      t.result.cyclesConsumed = 7 ∧ t.result.recognized = true :=
  ⟨(s.interruptEntry_entered false vector).endEntry nmi irq, rfl, rfl, s.interruptEntry_resetPending false vector,
    s.interruptEntry_started false vector, s.interruptEntry_params false vector, s.interruptEntry_oracle false vector,
    rfl, rfl⟩

/-- Settles O11: the entry through 0xFFFA, after which the latch is 0. -/
theorem nmiSequence : Obligations.NmiSequence := by
  intro s started noReset pending
  have ticked := step_of_poll_some (.inl started) (s.poll_eq_nmi_iff.mpr ⟨noReset, pending⟩)
  rw [State.service_nmi] at ticked
  obtain ⟨entered, nmi, irq, reset, started', rest⟩ := s.beginTick.interruptEntry_endEntry 0xFFFA#16 false s.irqPending
  exact ⟨_, ticked, entered, nmi, reset.trans noReset, irq, started'.trans started, rest⟩

/-- Settles O12: the entry through 0xFFFE, after which the pending latch is as the parameter says. -/
theorem irqSequence : Obligations.IrqSequence := by
  intro s started noReset noNmi pending unmasked
  have ticked := step_of_poll_some (.inl started) (s.poll_eq_irq_iff.mpr ⟨noReset, noNmi, pending, unmasked⟩)
  rw [State.service_irq, State.beginTick_irqPending, pending, Bool.true_and] at ticked
  obtain ⟨entered, nmi, irq, reset, started', rest⟩ :=
    s.beginTick.interruptEntry_endEntry 0xFFFE#16 s.nmiPending (!s.params.irqClearOnService)
  exact ⟨_, ticked, entered, irq, nmi.trans noNmi, reset.trans noReset, started'.trans started, rest⟩

/-- Settles O10: the poll by its cases, and what the NMI sequence leaves pending. -/
theorem pollChoosesTheHighestSource : Obligations.PollChoosesTheHighestSource := by
  intro s
  refine ⟨s.poll_eq_reset_iff, s.poll_eq_nmi_iff, s.poll_eq_irq_iff, s.poll_eq_none_iff, fun started polled => ?_⟩
  obtain ⟨noReset, pending⟩ := s.poll_eq_nmi_iff.mp polled
  obtain ⟨t, ticked, -, -, reset, irq, -⟩ := nmiSequence s started noReset pending
  exact ⟨t, ticked, irq, reset⟩

/-- Settles O14: the next poll reads I as the instruction has left it. -/
theorem maskChangesActAtTheNextPoll : Obligations.MaskChangesActAtTheNextPoll := by
  intro s noReset noNmi pending
  refine ⟨⟨_, exec_cli s, ?_⟩, ⟨_, exec_sei s, ?_⟩, ⟨_, exec_plp s, ?_⟩, ⟨_, exec_rti s, ?_⟩⟩
  · rw [State.poll_eq_irq_iff]
    exact ⟨noReset, noNmi, pending, s.setFlag_flag .i .i false⟩
  · rw [State.poll_eq_none_iff]
    exact ⟨noReset, noNmi, .inr (s.setFlag_flag .i .i true)⟩
  · have mask : (s.pullP.finish 4).flag .i = s.pull.1.getLsbD 2 := flagOf_normP s.pull.1 .i
    simp [State.poll_eq_irq_iff, mask, noReset, noNmi, pending]
  · have mask : (s.returnFromInterrupt.finish 6).flag .i = s.pull.1.getLsbD 2 := by
      rw [State.finish_flag, State.flag, State.returnFromInterrupt_p]
      exact flagOf_normP s.pull.1 .i
    simp [State.poll_eq_irq_iff, mask, noReset, noNmi, pending]

/-! ## RTI after an entry -/

/-- The pushed copy holds the six flags. -/
theorem PushedCopy.flagOf_eq {s : State} {b : Bool} {v : Byte} (h : PushedCopy s b v) (f : Flag) : flagOf v f = s.flag f := by
  obtain ⟨n, overflow, -, -, d, i, z, c⟩ := h
  cases f with
  | n => exact n
  | v => exact overflow
  | d => exact d
  | i => exact i
  | z => exact z
  | c => exact c

/-- Legal states with the same flags have the same P (10_state.md R63). -/
theorem State.p_eq_of_flags {s t : State} (hs : s.pLegal) (ht : t.pLegal) (flags : ∀ f, t.flag f = s.flag f) : t.p = s.p :=
  FlagsKept.p_eq ⟨fun f _ => flags f, ht.2.trans hs.2.symm, ht.1.trans hs.1.symm⟩

/-- When SP is the one register that may have changed and it has not, none has. -/
theorem RegsKept.of_sp {s t : State} (h : RegsKept s t [.sp]) (sp : t.sp = s.sp) : RegsKept s t [] := by
  intro r _
  rcases eq_or_ne r .sp with rfl | other
  · exact sp
  · exact h r (mt List.mem_singleton.mp other)

/-- Settles O31: RTI pulls the copy of P and the two bytes of PC from where the entry has stored them. -/
theorem entryThenReturn : Obligations.EntryThenReturn := by
  intro s b vector ⟨legal, wf⟩ plainHigh plainLow plainP
  obtain ⟨regs, sp, -, -, -, high, low, copy, -, -, copied, stored, -⟩ := s.interruptEntry_entered b vector
  obtain ⟨-, u, v, lo, hi, rti, flags, legal', pc, sp', regs', -, -, -, v_eq, lo_eq, hi_eq, -⟩ :=
    rtiRestoresPAndPc (s.interruptEntry b vector)
  have first : s.sp - 3#8 + 1#8 = s.sp - 2#8 := by bv_omega
  have second : s.sp - 3#8 + 2#8 = s.sp - 1#8 := by bv_omega
  have third : s.sp - 3#8 + 3#8 = s.sp := BitVec.sub_add_cancel s.sp 3#8
  rw [sp, first, State.interruptEntry_plain] at v_eq
  rw [sp, second, State.interruptEntry_plain] at lo_eq
  rw [sp, third, State.interruptEntry_plain] at hi_eq
  rw [sp, third] at sp'
  rw [v_eq plainP, stored wf plainP] at flags
  refine ⟨u, rti, ?_, State.p_eq_of_flags legal legal' fun f => (flags f).trans (copied.flagOf_eq f),
    .of_sp (fun r unwritten => (regs' r unwritten).trans (regs r unwritten)) sp'⟩
  rw [pc, lo_eq plainLow, hi_eq plainHigh, low wf plainLow, high wf plainHigh, wordOf_lo8_hi8]

/-! ## RESET -/

/-- A word is two reads, low byte first (20_memory.md R86). -/
theorem State.readWord_reads (s : State) (a : Word) : ∃ lo hi, (s.readWord a).1 = wordOf lo hi ∧
    (s.readWord a).2.bus = s.bus ++ [.read a lo, .read (a + 1#16) hi] ∧
    (s.plain a = true → lo = s.mem.peek a.toNat) ∧ (s.plain (a + 1#16) = true → hi = s.mem.peek (a + 1#16).toNat) := by
  rw [State.readWord_eq]
  refine ⟨_, _, rfl, by simp, State.memRead_value, fun plain => ?_⟩
  rw [State.memRead_value (by rwa [State.memRead_plain]), State.memRead_mem]

/-- I and D after the RESET sequence, whatever is drawn (60_exceptions.md R306). -/
theorem resetP_flags (drawn : Byte) : flagOf (resetP drawn) .i = true ∧ flagOf (resetP drawn) .d = false := by
  simp [resetP, flagOf, Flag.bit]

@[simp] theorem State.resetSequence_sp (s : State) : s.resetSequence.sp = resetSp s.params.resetSP s.sp := by
  simp [State.resetSequence]

@[simp] theorem State.resetSequence_params (s : State) : s.resetSequence.params = s.params := by
  simp [State.resetSequence]

@[simp] theorem State.resetSequence_oracle (s : State) : s.resetSequence.oracle = s.oracle := by
  simp [State.resetSequence]

theorem State.resetSequence_flags (s : State) : s.resetSequence.flag .i = true ∧ s.resetSequence.flag .d = false :=
  resetP_flags _

theorem State.resetSequence_pLegal (s : State) : s.resetSequence.pLegal := resetP_legal _

/-- The RESET sequence makes the two vector reads and no other access (60_exceptions.md R306). -/
theorem State.resetSequence_reads (s : State) : ∃ lo hi, s.resetSequence.pc = wordOf lo hi ∧
    s.resetSequence.bus = s.bus ++ [.read 0xFFFC#16 lo, .read 0xFFFD#16 hi] ∧
    (s.plain 0xFFFC#16 = true → lo = s.mem.peek 0xFFFC) ∧ (s.plain 0xFFFD#16 = true → hi = s.mem.peek 0xFFFD) :=
  State.readWord_reads { s with sp := resetSp s.params.resetSP s.sp } 0xFFFC#16

/-- Settles O13: the tick is the RESET sequence and its result. -/
theorem resetSequence : Obligations.ResetSequence := by
  intro s pending
  have ticked := step_of_poll_some (.inr pending) (s.poll_eq_reset_iff.mpr pending)
  obtain ⟨lo, hi, pc, bus, low, high⟩ := s.beginTick.resetSequence_reads
  obtain ⟨irqDisabled, decimal⟩ := s.beginTick.resetSequence_flags
  obtain ⟨bit5, bit4⟩ := s.beginTick.resetSequence_pLegal
  exact ⟨_, lo, hi, ticked, s.beginTick.resetSequence_sp, irqDisabled, decimal, bit5, bit4, pc, bus, low, high, rfl, rfl, rfl,
    rfl, s.beginTick.resetSequence_mem, s.beginTick.resetSequence_params, s.beginTick.resetSequence_oracle, rfl, rfl⟩

/-- After construction both settings of P_RESET_SP give SP = 0xFD (70_reset_and_hazards.md R335). -/
theorem resetSp_zero (r : ResetSP) : resetSp r 0x00#8 = 0xFD#8 := by
  cases r <;> rfl

/-- A run that begins with a tick. -/
theorem runHost_tick {s t : State} {run : List Drive} (h : step s = .next t) : runHost (.tick :: run) s = runHost run t := by
  rw [runHost, h]

/-- Settles O18: the tick after reset() is the RESET sequence, from SP = 0 and with the vector in plain memory. -/
theorem bootReachesTheResetState : Obligations.BootReachesTheResetState := by
  intro m pr d
  let s := (State.construct m [] pr d).hostReset
  obtain ⟨t, lo, hi, ticked, sp, irqDisabled, decimal, bit5, bit4, pc, -, low, high, reset, nmi, irq, started, mem, params, -⟩ :=
    resetSequence s rfl
  have plain (a : Word) : s.plain a = true := State.plain_of_oracle_nil rfl a
  exact ⟨t, runHost_tick ticked, sp.trans (resetSp_zero pr.resetSP), irqDisabled, decimal, ⟨bit5, bit4⟩,
    by rw [pc, low (plain _), high (plain _)]; rfl, started, reset, nmi, irq, mem, params⟩

/-! ## Host operations -/

/-- Settles O59: each operation is one record update, and the mutator normalises P. -/
theorem hostOperationsWriteTheirLatch : Obligations.HostOperationsWriteTheirLatch := fun _ _ v _ =>
  ⟨rfl, rfl, rfl, rfl, rfl, rfl, rfl, rfl, rfl, ⟨normP v, rfl, ⟨normP_bit5 v, normP_bit4 v⟩, flagOf_normP v⟩, rfl, rfl, rfl, rfl⟩

end Sys2Proof.Machine

/-! # Earlier results and accesses (20_memory.md R100, 70_reset_and_hazards.md R345)

A tick begins with no access recorded, so what is left to show is that the recorded result is not read. The shared operations carry
it along, and the end of the tick replaces all of it but the observed opcode, which the fetch has replaced before. -/

namespace Sys2Proof.Machine

/-! ## The shared operations carry the recorded result along -/

/-- The state with another recorded result. -/
def State.withResult (s : State) (r : TickResult) : State := { s with result := r }

section
variable (s : State) (r : TickResult)

@[simp] theorem State.withResult_pc : (s.withResult r).pc = s.pc := rfl

@[simp] theorem State.withResult_p : (s.withResult r).p = s.p := rfl

@[simp] theorem State.withResult_plain (k : Word) : (s.withResult r).plain k = s.plain k := rfl

theorem State.setFlag_withResult (f : Flag) (b : Bool) : (s.withResult r).setFlag f b = (s.setFlag f b).withResult r := rfl

theorem State.memRead_withResult (k : Word) : (s.withResult r).memRead k = ((s.memRead k).1, (s.memRead k).2.withResult r) := by
  rw [State.memRead, State.memRead, State.withResult_plain]
  split <;> rfl

theorem State.memWrite_withResult (k : Word) (v : Byte) : (s.withResult r).memWrite k v = (s.memWrite k v).withResult r := by
  rw [State.memWrite, State.memWrite, State.withResult_plain]
  split <;> rfl

theorem State.readWord_withResult (k : Word) : (s.withResult r).readWord k = ((s.readWord k).1, (s.readWord k).2.withResult r) := by
  simp only [State.readWord, State.memRead_withResult]

theorem State.readWordZP_withResult (p : Byte) :
    (s.withResult r).readWordZP p = ((s.readWordZP p).1, (s.readWordZP p).2.withResult r) := by
  simp only [State.readWordZP, State.memRead_withResult]

theorem State.push_withResult (v : Byte) : (s.withResult r).push v = (s.push v).withResult r := by
  rw [State.push, State.memWrite_withResult]
  rfl

theorem State.pull_withResult : (s.withResult r).pull = (s.pull.1, s.pull.2.withResult r) :=
  State.memRead_withResult { s with sp := s.sp + 1#8 } r _

theorem State.pullP_withResult : (s.withResult r).pullP = s.pullP.withResult r := by
  rw [State.pullP, State.pull_withResult]
  rfl

theorem State.returnFromInterrupt_withResult : (s.withResult r).returnFromInterrupt = s.returnFromInterrupt.withResult r := by
  simp only [State.returnFromInterrupt, State.pullP_withResult, State.pull_withResult]
  rfl

theorem State.interruptEntry_withResult (b : Bool) (vector : Word) :
    (s.withResult r).interruptEntry b vector = (s.interruptEntry b vector).withResult r := by
  simp only [State.interruptEntry, State.push_withResult, State.withResult_pc, State.withResult_p, State.setFlag_withResult,
    State.readWord_withResult]
  rfl

theorem State.resetSequence_withResult : (s.withResult r).resetSequence = s.resetSequence.withResult r := by
  have vector := State.readWord_withResult { s with sp := resetSp s.params.resetSP s.sp } r 0xFFFC#16
  simp only [State.resetSequence, State.withResult] at vector ⊢
  simp only [vector]
  rfl

end

end Sys2Proof.Machine

namespace Sys2Proof

open Machine

section
variable (s : State) (r : TickResult)

theorem Mem.resolve_withResult (m : Mem) :
    m.resolve (s.withResult r) = ((m.resolve s).1, (m.resolve s).2.1, (m.resolve s).2.2.withResult r) := by
  cases m with
  | indx b => rw [Mem.resolve, State.readWordZP_withResult]; rfl
  | indy b => rw [Mem.resolve, State.readWordZP_withResult]; rfl
  | _ => rfl

theorem JmpOperand.resolve_withResult (t : JmpOperand) :
    t.resolve (s.withResult r) = ((t.resolve s).1, (t.resolve s).2.withResult r) := by
  cases t with
  | abs w => rfl
  | ind w => simp only [JmpOperand.resolve, State.memRead_withResult]

theorem Src.load_withResult (m : Src) :
    m.load (s.withResult r) = ((m.load s).1, (m.load s).2.1, (m.load s).2.2.withResult r) := by
  cases m with
  | imm v => rfl
  | mem m => simp only [Src.load, Mem.resolve_withResult, State.memRead_withResult]

theorem Mem.store_withResult (m : Mem) (v : Byte) : m.store (s.withResult r) v = (m.store s v).withResult r := by
  rw [Mem.store_eq, Mem.resolve_withResult, State.memWrite_withResult, Mem.store_eq]

theorem RmwMem.modify_withResult (m : RmwMem) (g : Byte → Byte) :
    m.modify (s.withResult r) g = ((m.modify s g).1, (m.modify s g).2.withResult r) := by
  simp only [RmwMem.modify, Mem.resolve_withResult, State.memRead_withResult, State.memWrite_withResult]

theorem Rmw.modify_withResult (m : Rmw) (g : Byte → Byte) :
    m.modify (s.withResult r) g = ((m.modify s g).1, (m.modify s g).2.withResult r) := by
  cases m with
  | acc => rfl
  | mem m => exact RmwMem.modify_withResult s r m g

end

end Sys2Proof

namespace Sys2Proof.Machine

/-! ## Every instruction replaces it -/

/-- What `i` does from `s` does not depend on the recorded result, but for the opcode the fetch has observed. -/
def IgnoresResult (i : Instr) (s : State) : Prop :=
  ∀ r : TickResult, r.opcodeObserved = s.result.opcodeObserved → exec i (s.withResult r) = exec i s

namespace IgnoresResult

variable {i : Instr} {s u : State} {n : Nat}

/-- `State.finish` keeps the observed opcode alone. -/
theorem finish_withResult {r : TickResult} (observed : r.opcodeObserved = s.result.opcodeObserved)
    (kept : u.result = s.result) : (u.withResult r).finish n = u.finish n := by
  rw [← kept] at observed
  simp only [State.finish, State.withResult, observed]

/-- From operations that carry the result along, up to `State.finish`. -/
theorem of_finish (executed : exec i s = .next (u.finish n))
    (executed' : ∀ r, exec i (s.withResult r) = .next ((u.withResult r).finish n))
    (kept : u.result = s.result := by simp) : IgnoresResult i s := by
  intro r observed
  rw [executed, executed', finish_withResult observed kept]

/-- A branch ends in `State.finish`, taken or not (46_control.md R256). -/
theorem of_branch {v : State} {c : Bool} {m : Nat}
    (executed : exec i s = .next (if c = true then u.finish n else v.finish m))
    (executed' : ∀ r, exec i (s.withResult r) =
      .next (if c = true then (u.withResult r).finish n else (v.withResult r).finish m))
    (kept : u.result = s.result := by simp) (kept' : v.result = s.result := by simp) : IgnoresResult i s := by
  cases c with
  | true => exact of_finish executed executed' kept
  | false => exact of_finish executed executed' kept'

end IgnoresResult

open IgnoresResult in
/-- By the operations of each instruction's meaning. -/
theorem exec_ignoresResult (i : Instr) (s : State) : IgnoresResult i s := by
  cases i with
  | lda m => exact of_finish (exec_lda m s) fun r => by rw [exec_lda, Src.load_withResult]; rfl
  | ldx m => exact of_finish (exec_ldx m s) fun r => by rw [exec_ldx, Src.load_withResult]; rfl
  | ldy m => exact of_finish (exec_ldy m s) fun r => by rw [exec_ldy, Src.load_withResult]; rfl
  | sta m => exact of_finish (exec_sta m s) fun r => by rw [exec_sta, Mem.store_withResult]; rfl
  | stx m => exact of_finish (exec_stx m s) fun r => by rw [exec_stx, Mem.store_withResult]; rfl
  | sty m => exact of_finish (exec_sty m s) fun r => by rw [exec_sty, Mem.store_withResult]; rfl
  | tax => exact of_finish (exec_tax s) fun _ => rfl
  | tay => exact of_finish (exec_tay s) fun _ => rfl
  | txa => exact of_finish (exec_txa s) fun _ => rfl
  | tya => exact of_finish (exec_tya s) fun _ => rfl
  | tsx => exact of_finish (exec_tsx s) fun _ => rfl
  | txs => exact of_finish (exec_txs s) fun _ => rfl
  | pha => exact of_finish (exec_pha s) fun r => by rw [exec_pha, State.push_withResult]; rfl
  | php => exact of_finish (exec_php s) fun r => by rw [exec_php, State.push_withResult]; rfl
  | pla => exact of_finish (exec_pla s) fun r => by rw [exec_pla, State.pull_withResult]; rfl
  | plp => exact of_finish (exec_plp s) fun r => by rw [exec_plp, State.pullP_withResult]
  | adc m => exact of_finish (exec_adc m s) fun r => by rw [exec_adc, Src.load_withResult]; rfl
  | sbc m => exact of_finish (exec_sbc m s) fun r => by rw [exec_sbc, Src.load_withResult]; rfl
  | cmp m => exact of_finish (exec_cmp m s) fun r => by rw [exec_cmp, Src.load_withResult]; rfl
  | cpx m => exact of_finish (exec_cpx m s) fun r => by rw [exec_cpx, Src.load_withResult]; rfl
  | cpy m => exact of_finish (exec_cpy m s) fun r => by rw [exec_cpy, Src.load_withResult]; rfl
  | inc m => exact of_finish (exec_inc m s) fun r => by rw [exec_inc, RmwMem.modify_withResult]; rfl
  | dec m => exact of_finish (exec_dec m s) fun r => by rw [exec_dec, RmwMem.modify_withResult]; rfl
  | inx => exact of_finish (exec_inx s) fun _ => rfl
  | iny => exact of_finish (exec_iny s) fun _ => rfl
  | dex => exact of_finish (exec_dex s) fun _ => rfl
  | dey => exact of_finish (exec_dey s) fun _ => rfl
  | and m => exact of_finish (exec_and m s) fun r => by rw [exec_and, Src.load_withResult]; rfl
  | ora m => exact of_finish (exec_ora m s) fun r => by rw [exec_ora, Src.load_withResult]; rfl
  | eor m => exact of_finish (exec_eor m s) fun r => by rw [exec_eor, Src.load_withResult]; rfl
  | bit m => exact of_finish (exec_bit m s) fun r => by rw [exec_bit, Mem.load, Src.load_withResult]; rfl
  | asl m => exact of_finish (exec_asl m s) fun r => by rw [exec_asl, Rmw.modify_withResult]; rfl
  | lsr m => exact of_finish (exec_lsr m s) fun r => by rw [exec_lsr, Rmw.modify_withResult]; rfl
  | rol m => exact of_finish (exec_rol m s) fun r => by rw [exec_rol, Rmw.modify_withResult]; rfl
  | ror m => exact of_finish (exec_ror m s) fun r => by rw [exec_ror, Rmw.modify_withResult]; rfl
  | bcc o => exact of_branch (exec_bcc o s) fun _ => exec_bcc o _
  | bcs o => exact of_branch (exec_bcs o s) fun _ => exec_bcs o _
  | beq o => exact of_branch (exec_beq o s) fun _ => exec_beq o _
  | bne o => exact of_branch (exec_bne o s) fun _ => exec_bne o _
  | bmi o => exact of_branch (exec_bmi o s) fun _ => exec_bmi o _
  | bpl o => exact of_branch (exec_bpl o s) fun _ => exec_bpl o _
  | bvc o => exact of_branch (exec_bvc o s) fun _ => exec_bvc o _
  | bvs o => exact of_branch (exec_bvs o s) fun _ => exec_bvs o _
  | jmp t => exact of_finish (exec_jmp t s) fun r => by rw [exec_jmp, JmpOperand.resolve_withResult]; rfl
  | jsr w =>
    exact of_finish (exec_jsr w s) fun r => by
      rw [exec_jsr, State.push_withResult, State.push_withResult]
      simp only [State.memRead_withResult]
      rfl
  | rts => exact of_finish (exec_rts s) fun r => by simp only [exec_rts, State.pull_withResult]; rfl
  | rti => exact of_finish (exec_rti s) fun r => by rw [exec_rti, State.returnFromInterrupt_withResult]
  | brk b =>
    exact of_finish (exec_brk b s) fun r => by
      rw [← State.interruptEntry_withResult]
      exact exec_brk b (s.withResult r)
  | clc => exact of_finish (exec_clc s) fun _ => rfl
  | sec => exact of_finish (exec_sec s) fun _ => rfl
  | cli => exact of_finish (exec_cli s) fun _ => rfl
  | sei => exact of_finish (exec_sei s) fun _ => rfl
  | cld => exact of_finish (exec_cld s) fun _ => rfl
  | sed => exact of_finish (exec_sed s) fun _ => rfl
  | clv => exact of_finish (exec_clv s) fun _ => rfl
  | nop => exact of_finish (exec_nop s) fun _ => rfl
  | nopImp op => exact of_finish (exec_nopImp op s) fun _ => rfl
  | nopImm op v => exact of_finish (exec_nopImm op v s) fun _ => rfl
  | nopZp op b => exact of_finish (exec_nopZp op b s) fun _ => rfl
  | nopZpx op b => exact of_finish (exec_nopZpx op b s) fun _ => rfl
  | nopAbs op w => exact of_finish (exec_nopAbs op w s) fun _ => rfl
  | nopAbsx op w => exact of_finish (exec_nopAbsx op w s) fun _ => rfl
  | unrecognized op =>
    intro r _
    rw [exec_unrecognized, exec_unrecognized]
    rfl

/-! ## The tick -/

/-- The fetch as its steps: the opcode byte, and the two operand bytes that its form has. -/
theorem State.fetchInstr_eq (s : State) : s.fetchInstr =
    let v := s.fetchOpcode.operandByte (decide (1 ≤ fetchCount s.fetchByte.1))
    let w := v.2.operandByte (decide (2 ≤ fetchCount s.fetchByte.1))
    (decodeOp s.fetchByte.1 v.1 w.1, w.2) := rfl

section
variable (s : State) (r : TickResult)

theorem State.fetchByte_withResult : (s.withResult r).fetchByte = (s.fetchByte.1, s.fetchByte.2.withResult r) := by
  rw [State.fetchByte, State.withResult_pc, State.memRead_withResult]
  rfl

theorem State.operandByte_withResult (b : Bool) :
    (s.withResult r).operandByte b = ((s.operandByte b).1, (s.operandByte b).2.withResult r) := by
  cases b with
  | true => exact s.fetchByte_withResult r
  | false => rfl

theorem State.fetchOpcode_withResult :
    (s.withResult r).fetchOpcode = s.fetchOpcode.withResult { r with opcodeObserved := s.fetchByte.1 } := by
  rw [State.fetchOpcode, State.fetchByte_withResult]
  rfl

theorem State.fetchInstr_withResult : (s.withResult r).fetchInstr =
    (s.fetchInstr.1, s.fetchInstr.2.withResult { r with opcodeObserved := s.fetchByte.1 }) := by
  simp only [State.fetchInstr_eq, State.fetchByte_withResult, State.fetchOpcode_withResult, State.operandByte_withResult]

theorem State.finishSequence_withResult : (s.withResult r).finishSequence = s.finishSequence := rfl

theorem State.endEntry_withResult (nmi irq : Bool) : (s.withResult r).endEntry nmi irq = s.endEntry nmi irq := rfl

/-- A sequence replaces all of the result (30_encoding.md R120). -/
theorem State.service_withResult (e : Source) : (s.withResult r).service e = s.service e := by
  cases e with
  | reset => rw [State.service, State.resetSequence_withResult, State.finishSequence_withResult, State.service]
  | nmi => rw [State.service_nmi, State.interruptEntry_withResult, State.endEntry_withResult, State.service_nmi]; rfl
  | irq => rw [State.service_irq, State.interruptEntry_withResult, State.endEntry_withResult, State.service_irq]; rfl

/-- The fetch observes the opcode, and the instruction writes the rest of the result. -/
theorem exec_fetchInstr_withResult :
    exec (s.withResult r).fetchInstr.1 (s.withResult r).fetchInstr.2 = exec s.fetchInstr.1 s.fetchInstr.2 := by
  obtain ⟨b1, b2, -, result, -⟩ := s.fetchInstr_fetched
  rw [State.fetchInstr_withResult]
  exact exec_ignoresResult _ _ _ (by rw [result])

end

/-- Settles O22: a tick begins with no access recorded, and its sequence or instruction replaces the result. -/
theorem ticksIgnoreEarlierResults : Obligations.TicksIgnoreEarlierResults := by
  intro s r bus
  have begins : State.beginTick { s with result := r, bus := bus } = s.beginTick.withResult r := rfl
  rw [step, step, begins]
  simp only [State.service_withResult, exec_fetchInstr_withResult]
  rfl

end Sys2Proof.Machine
